-- ==== Sys2Proof/Word.lean ====
section
/-! DEFINITION. The words of UBXFP: a byte is 8 bits, a length field 16 bits, a PositionFix field 32 bits
(R12 of 00_scope.md, R90, R94 of 30_encoding.md). -/

namespace Sys2Proof

/-- A byte, value 0 to 255, bit 0 the least significant (R12). -/
abbrev Byte := BitVec 8

/-- A 16-bit unsigned length (R92). -/
abbrev U16 := BitVec 16

/-- The 32 bits of a field typed u32 (R94). -/
abbrev U32 := BitVec 32

/-- The same 32 bits where the spec types the field i32: read as two's complement (R94). -/
abbrev I32 := BitVec 32

/-- A byte sequence, first byte first (R12). -/
abbrev Bytes := List Byte

end Sys2Proof
end

