-- ==== Sys2Proof/Config.lean ====
section
/-! DEFINITION. What is fixed for one instance (R10 of 00_scope.md), what the host and the peer may do, and the free
values for what the spec leaves to them (R9, R66, R67, R69; log 2, log 3, log 9). -/

namespace Sys2Proof

/-- The ingestion mode (R25): 0 = FRAMED, 1 = FREERUN. -/
inductive Mode where
  | framed
  | freerun
deriving DecidableEq, Repr, Inhabited

/-- The parameters of R10 that the spec leaves OPEN, each with the constraint the table gives it. A configuration
outside its constraints (U16) has no value of this type. The fixed rows of R10 are constants of Decode.lean. -/
structure Config where
  /-- MAX_FRAME, counted over the whole frame (D7). -/
  maxFrame : Nat
  maxFrame_ge : 36 ≤ maxFrame
  maxFrame_le : maxFrame ≤ 65543
  /-- LINE_CAPACITY, the size of LB and of CB (D8). -/
  lineCapacity : Nat
  lineCapacity_pos : 1 ≤ lineCapacity
  /-- READ_TIMEOUT_MS (D11); no rule's result depends on it. -/
  readTimeoutMs : Nat
  cfgClass : Byte
  cfgId : Byte
  rstClass : Byte
  rstId : Byte
  rstByte0 : Byte
deriving DecidableEq, Repr

/-- The instance of 95_test_vectors.md part 1, with the defaults of R10 for the class and id parameters.
DESIGN CHOICE (log 6): unsafe for a claim that rests on one of these numbers. -/
def Config.default : Config :=
  { maxFrame := 64, maxFrame_ge := by decide, maxFrame_le := by decide
    lineCapacity := 32, lineCapacity_pos := by decide
    readTimeoutMs := 100
    cfgClass := 0x06, cfgId := 0x00, rstClass := 0x06, rstId := 0x04, rstByte0 := 0x00 }

/-- What the environment does at ONE transport call (R66, R67, R69): the count a TWrite accepts, the bytes that arrive
while a TReadExact waits, and the bytes the peer appends to RXQ after the call and before the block's next move. -/
structure Draw where
  accepts : Nat
  waits : Bytes
  after : Bytes
deriving DecidableEq, Repr, Inhabited

/-- A register or byte the host writes (R20, R21, R33). PIN and POUT have up to 65535 bytes each (R60); the model gives
both that size (log 11). -/
inductive HostWrite where
  | argClass (b : Byte)
  | argId (b : Byte)
  | argLen (n : U16)
  | expClass (b : Byte)
  | expId (b : Byte)
  | expLen (n : U16)
  | argFmt (b : Byte)
  | argOn (on : Bool)
  | argRst (b : Byte)
  | pin (i : Fin 65535) (b : Byte)
  | pout (i : Fin 65535) (b : Byte)
deriving DecidableEq, Repr, Inhabited

/-- The seven PositionFix registers by name (R32). -/
inductive FixField where
  | timeOfWeek
  | longitude
  | latitude
  | heightAboveEllipsoid
  | heightAboveMeanSeaLevel
  | horizontalAccuracyEstimate
  | verticalAccuracyEstimate
deriving DecidableEq, Repr, Inhabited

/-- What the host can read (R20's column "read by", R195). The ReceiveSession, LB, LB_CURSOR, IDLE_COUNT and CB are not
readable (R26, R209). -/
inductive HostPort where
  | opc
  | argClass
  | argId
  | argLen
  | expClass
  | expId
  | expLen
  | argFmt
  | argOn
  | argRst
  | status
  | resEvent
  | resLen
  | resCkA
  | resCkB
  | fix (f : FixField)
  | cbLen
  | fb (i : Nat)
  | pin (i : Fin 65535)
  | pout (i : Fin 65535)
deriving DecidableEq, Repr, Inhabited

/-- One move of the outside world between two commands (R8, R9, R230), or a command with its OPC (R101).
DESIGN CHOICE (log 19): no move takes bytes out of RXQ. R69 and R8 leave that to the block's own reads; R158, R232 (5),
R236, R238 and U13 let RXQ be shortened by means outside the block. -/
inductive Input where
  /-- Nobody acts: an idle block waits and keeps its state (R213). -/
  | idle
  /-- The host writes an operand register or a byte of a host-owned space. -/
  | write (w : HostWrite)
  /-- The host writes OPC, which starts the command (R101, R190). -/
  | issue (opc : Byte)
  /-- The host reads a register or a byte (R63: no side effect on the block). -/
  | read (p : HostPort)
  /-- The peer appends these bytes to RXQ (R69). -/
  | arrive (bytes : Bytes)
  /-- Reset is asserted and released while the block is idle, with the mode strap (R230). -/
  | reset (strap : Mode)
  /-- The host starts a command and reset is asserted after `calls` of its transport calls and, when those are all it
  makes, after `copied` bytes of its copy to POUT (R230, U14; log 8). -/
  | abandon (opc : Byte) (calls copied : Nat) (strap : Mode)
deriving DecidableEq, Repr, Inhabited

/-- FREE VALUE (R66, R67, R69; log 3): what the environment does at a transport call that no script says. -/
opaque Config.freeDraw : Nat → Draw

/-- FREE VALUE (R7, R23; log 2): what the host or the peer does next when no script says. -/
opaque Config.freeInput : Nat → Input

/-- FREE VALUE (R27, U2; log 9): what a host read of FB returns outside the one defined case. -/
opaque Config.freeByte : Nat → Byte

end Sys2Proof
end

