-- ==== Sys2Proof/Syntax.lean ====
section
/-! DEFINITION. The instructions: one constructor per row of spec/opcode_table.json. A command's operands are the operand
registers (R21, R101), so the ten command constructors carry none. -/

namespace Sys2Proof

/-- The seven fields of the position message and of the FIX registers (R32, R97). -/
structure PositionFix where
  timeOfWeek : U32
  longitude : I32
  latitude : I32
  heightAboveEllipsoid : I32
  heightAboveMeanSeaLevel : I32
  horizontalAccuracyEstimate : U32
  verticalAccuracyEstimate : U32
deriving DecidableEq, Repr, Inhabited

/-- Where the words of a row stand: in OPC, written by the host (R101), or on the wire (R90, R100). -/
inductive Port where
  | command
  | wire
deriving DecidableEq, Repr

/-- The rows of the opcode table. For the wire rows `ckA`, `ckB` are the two trailer bytes as they stand on the wire
(R90); whether they are the checksum of R93 is `frameTrailerOk` of Machine/Flags.lean (log 12). -/
inductive Instr where
  | cksum
  | encode
  | decode
  | reqresp
  | getfix
  | setfmt
  | applyrst
  | poll
  | rdsent
  | lcreset
  /-- OPC holds a value that names no command (R103). -/
  | illegal (opc : Byte)
  /-- R90: any class, id and payload; the length field is the payload's length. -/
  | ubxFrame (cls id : Byte) (payload : Bytes) (ckA ckB : Byte)
  /-- R171: always the eight bytes B5 62 01 02 00 00 03 0A. -/
  | navPollFrame
  /-- R97: class 0x01, id 0x02, 28 payload bytes holding seven fields. -/
  | navResponseFrame (fix : PositionFix) (ckA ckB : Byte)
  /-- R96, R173: the configuration query, no payload. -/
  | cfgQueryFrame (cls id ckA ckB : Byte)
  /-- R96, R98: the configuration write, 20 payload bytes (also the form of the query's response). -/
  | cfgWriteFrame (cls id : Byte) (payload : Bytes) (ckA ckB : Byte)
  /-- R99: the receiver reset, two payload bytes. -/
  | rstFrame (cls id byte0 variant ckA ckB : Byte)
  /-- R100: `$`, any bytes, newline; `body` is what stands between the delimiters. -/
  | sentence (body : Bytes)
deriving DecidableEq, Repr

end Sys2Proof
end

