-- ==== Sys2Proof/WellFormed.lean ====
section
/-! DEFINITION. When an instruction is one the encoding can express for a given instance (R90 to R103). Where two rows of
the table describe the same words, the more special row owns them (log 14), so `ubxFrame` is the form of the frames that
no other row names. -/

namespace Sys2Proof

/-- The eight bytes of NAV_POLL_FRAME, as class, id, payload and trailer (R171). -/
def isNavPoll (cls id : Byte) (payload : Bytes) (ckA ckB : Byte) : Bool :=
  cls == 0x01 && id == 0x02 && payload == [] && ckA == 0x03 && ckB == 0x0A

/-- The leading part of NAV_RESPONSE_FRAME (R97). -/
def isNavResponse (cls id : Byte) (payload : Bytes) : Bool :=
  cls == 0x01 && id == 0x02 && payload.length == 28

/-- The leading part of CFG_QUERY_FRAME (`len` = 0) and CFG_WRITE_FRAME (`len` = 20) (R96). -/
def isCfg (cfg : Config) (len : Nat) (cls id : Byte) (payload : Bytes) : Bool :=
  cls == cfg.cfgClass && id == cfg.cfgId && payload.length == len

/-- The leading part of RST_FRAME (R99). -/
def isRst (cfg : Config) (cls id : Byte) (payload : Bytes) : Bool :=
  cls == cfg.rstClass && id == cfg.rstId && payload.length == 2 && payload.take 1 == [cfg.rstByte0]

/-- No row but UBX_FRAME describes this frame. -/
def isPlainFrame (cfg : Config) (cls id : Byte) (payload : Bytes) (ckA ckB : Byte) : Bool :=
  !(isNavPoll cls id payload ckA ckB || isNavResponse cls id payload || isCfg cfg 0 cls id payload ||
    isCfg cfg 20 cls id payload || isRst cfg cls id payload)

/-- The checks, row by row: an illegal opcode is none of 0x01 to 0x0A (R103); a payload has at most 65535 bytes (R90);
a frame under a built-in row has that row's class, id and length (R96 to R99). -/
def Instr.wellFormed (cfg : Config) : Instr → Bool
  | .cksum => true
  | .encode => true
  | .decode => true
  | .reqresp => true
  | .getfix => true
  | .setfmt => true
  | .applyrst => true
  | .poll => true
  | .rdsent => true
  | .lcreset => true
  | .illegal opc => opc == 0x00 || decide (0x0A < opc.toNat)
  | .ubxFrame cls id payload ckA ckB =>
    decide (payload.length ≤ 65535) && isPlainFrame cfg cls id payload ckA ckB
  | .navPollFrame => true
  | .navResponseFrame _ _ _ => true
  | .cfgQueryFrame cls id ckA ckB =>
    cls == cfg.cfgClass && id == cfg.cfgId && !isNavPoll cls id [] ckA ckB
  | .cfgWriteFrame cls id payload _ _ => isCfg cfg 20 cls id payload
  | .rstFrame cls id byte0 _ _ _ => cls == cfg.rstClass && id == cfg.rstId && byte0 == cfg.rstByte0
  | .sentence _ => true

end Sys2Proof
end

