-- ==== Sys2Proof/Decode.lean ====
section
/-! DEFINITION. The fixed numbers of the encodings, the byte-order helpers, the decoder (total on any bytes, rejecting by
name) and the encoder, from 30_encoding.md R90 to R103 and spec/opcode_table.json. -/

namespace Sys2Proof

/-! ## Fixed numbers (R10, R91, R100) -/

/-- SYNC1, offset 0 of a frame (R90). -/
def sync1 : Byte := 0xB5

/-- SYNC2, offset 1 of a frame (R90). -/
def sync2 : Byte := 0x62

/-- HEADER_SIZE: sync1, sync2, class, id, len low, len high (R91). -/
def headerSize : Nat := 6

/-- TRAILER_SIZE: ckA, ckB (R91). -/
def trailerSize : Nat := 2

/-- `N = 8 + L`, without wrap (R91, R125 (b)). -/
def frameLength (payloadLength : Nat) : Nat := headerSize + payloadLength + trailerSize

/-- NAV_CLASS (R10). -/
def navClass : Byte := 0x01

/-- NAV_ID (R10). -/
def navId : Byte := 0x02

/-- NAV_LEN (R10). -/
def navLen : Nat := 28

/-- CFG_LEN (R10). -/
def cfgLen : Nat := 20

/-- CFG_FMT_OFFSET (R10, R98). -/
def cfgFmtOffset : Nat := 14

/-- The start delimiter `$` of a sentence (R100). -/
def dollar : Byte := 0x24

/-- The end delimiter newline of a sentence (R100). -/
def newline : Byte := 0x0A

/-! ## Byte order (R12, R61, R92, R94): the byte at the lower offset is the less significant -/

/-- `le16(b0, b1)` of R12. -/
def le16 (b0 b1 : Byte) : U16 := b1 ++ b0

/-- `le32(b0, b1, b2, b3)` of R12. -/
def le32 (b0 b1 b2 b3 : Byte) : U32 := b3 ++ b2 ++ b1 ++ b0

/-- `L mod 256`, frame offset 4 (R92). -/
def lenLow (n : Nat) : Byte := BitVec.ofNat 8 (n % 256)

/-- `L div 256`, frame offset 5 (R92). -/
def lenHigh (n : Nat) : Byte := BitVec.ofNat 8 (n / 256)

/-- The four bytes of a 32-bit field, lowest offset first (R61). -/
def le32Bytes (v : U32) : Bytes :=
  [v.extractLsb' 0 8, v.extractLsb' 8 8, v.extractLsb' 16 8, v.extractLsb' 24 8]

/-- `as_i32(v)` of R12: the same 32 bits read as two's complement. -/
def asI32 (v : I32) : Int := if v.toNat < 2 ^ 31 then (v.toNat : Int) else (v.toNat : Int) - 2 ^ 32

/-- The 32-bit field at payload offset `o` (R94). -/
def le32At (p : Bytes) (o : Nat) : U32 :=
  le32 (p.getD o 0) (p.getD (o + 1) 0) (p.getD (o + 2) 0) (p.getD (o + 3) 0)

/-- The seven fields of a position payload, at offsets 0, 4, ..., 24 (R97). -/
def fixOfPayload (p : Bytes) : PositionFix :=
  { timeOfWeek := le32At p 0
    longitude := le32At p 4
    latitude := le32At p 8
    heightAboveEllipsoid := le32At p 12
    heightAboveMeanSeaLevel := le32At p 16
    horizontalAccuracyEstimate := le32At p 20
    verticalAccuracyEstimate := le32At p 24 }

/-- The 28 payload bytes that hold seven fields (R97). -/
def payloadOfFix (f : PositionFix) : Bytes :=
  le32Bytes f.timeOfWeek ++ le32Bytes f.longitude ++ le32Bytes f.latitude ++ le32Bytes f.heightAboveEllipsoid ++
    le32Bytes f.heightAboveMeanSeaLevel ++ le32Bytes f.horizontalAccuracyEstimate ++
    le32Bytes f.verticalAccuracyEstimate

/-! ## Decoding -/

/-- Why bytes are no instruction. -/
inductive DecodeError where
  /-- Nothing to decode. -/
  | empty
  /-- A command is one byte (R101); more stood in OPC. -/
  | commandTooLong
  /-- Neither a sync byte nor `$` stands first. -/
  | unknownStart
  /-- Fewer than the six header bytes of R91. -/
  | truncatedHeader
  /-- The second byte is not SYNC2 (R90). -/
  | badSync
  /-- The bytes after the header are not the declared payload and a trailer (R90). -/
  | badFrameLength
  /-- A run that starts with `$` does not end with newline (R100). -/
  | noNewline
deriving DecidableEq, Repr

/-- The opcode map (R102); every other value names no command (R103). -/
def decodeCommand (opc : Byte) : Instr :=
  match opc.toNat with
  | 0x01 => .cksum
  | 0x02 => .encode
  | 0x03 => .decode
  | 0x04 => .reqresp
  | 0x05 => .getfix
  | 0x06 => .setfmt
  | 0x07 => .applyrst
  | 0x08 => .poll
  | 0x09 => .rdsent
  | 0x0A => .lcreset
  | _ => .illegal opc

/-- The row that owns a frame: the most special one first (R96, R97, R99; log 14). -/
def classifyFrame (cfg : Config) (cls id : Byte) (payload : Bytes) (ckA ckB : Byte) : Instr :=
  if cls = navClass ∧ id = navId ∧ payload.length = 0 ∧ ckA = 0x03 ∧ ckB = 0x0A then .navPollFrame
  else if cls = navClass ∧ id = navId ∧ payload.length = navLen then
    .navResponseFrame (fixOfPayload payload) ckA ckB
  else if cls = cfg.cfgClass ∧ id = cfg.cfgId ∧ payload.length = 0 then .cfgQueryFrame cls id ckA ckB
  else if cls = cfg.cfgClass ∧ id = cfg.cfgId ∧ payload.length = cfgLen then
    .cfgWriteFrame cls id payload ckA ckB
  else if cls = cfg.rstClass ∧ id = cfg.rstId ∧ payload.length = 2 ∧ payload.getD 0 0 = cfg.rstByte0 then
    .rstFrame cls id (payload.getD 0 0) (payload.getD 1 0) ckA ckB
  else .ubxFrame cls id payload ckA ckB

/-- A whole frame (R90): the two sync bytes, class, id, length, payload, trailer, and nothing after it. -/
def decodeFrameBytes (cfg : Config) (bytes : Bytes) : Except DecodeError Instr :=
  match bytes with
  | s1 :: s2 :: cls :: id :: lo :: hi :: rest =>
    if s1 ≠ sync1 ∨ s2 ≠ sync2 then .error .badSync
    else if rest.length ≠ (le16 lo hi).toNat + trailerSize then .error .badFrameLength
    else
      .ok (classifyFrame cfg cls id (rest.take (le16 lo hi).toNat) (rest.getD (le16 lo hi).toNat 0)
        (rest.getD ((le16 lo hi).toNat + 1) 0))
  | _ => .error .truncatedHeader

/-- The bytes after `$` of a sentence: they end with newline (R100). -/
def decodeSentenceTail (tail : Bytes) : Except DecodeError Instr :=
  if tail.getLast? = some newline then .ok (.sentence tail.dropLast) else .error .noNewline

/-- One run of bytes from the peer: a frame (R90) or a sentence (R100). -/
def decodeWire (cfg : Config) (bytes : Bytes) : Except DecodeError Instr :=
  match bytes with
  | [] => .error .empty
  | b :: tail =>
    if b = dollar then decodeSentenceTail tail
    else if b = sync1 then decodeFrameBytes cfg (b :: tail)
    else .error .unknownStart

/-- The decoder: total on any bytes at either port. -/
def decode (cfg : Config) (port : Port) (bytes : Bytes) : Except DecodeError Instr :=
  match port, bytes with
  | .command, [] => .error .empty
  | .command, [opc] => .ok (decodeCommand opc)
  | .command, _ :: _ :: _ => .error .commandTooLong
  | .wire, bytes => decodeWire cfg bytes

/-! ## Encoding -/

/-- The frame format of R90, with the trailer as given. -/
def frameWith (cls id : Byte) (payload : Bytes) (ckA ckB : Byte) : Bytes :=
  [sync1, sync2, cls, id, lenLow payload.length, lenHigh payload.length] ++ payload ++ [ckA, ckB]

/-- The words of an instruction: where they stand and what they are. -/
def encode : Instr → Port × Bytes
  | .cksum => (.command, [0x01])
  | .encode => (.command, [0x02])
  | .decode => (.command, [0x03])
  | .reqresp => (.command, [0x04])
  | .getfix => (.command, [0x05])
  | .setfmt => (.command, [0x06])
  | .applyrst => (.command, [0x07])
  | .poll => (.command, [0x08])
  | .rdsent => (.command, [0x09])
  | .lcreset => (.command, [0x0A])
  | .illegal opc => (.command, [opc])
  | .ubxFrame cls id payload ckA ckB => (.wire, frameWith cls id payload ckA ckB)
  | .navPollFrame => (.wire, [0xB5, 0x62, 0x01, 0x02, 0x00, 0x00, 0x03, 0x0A])
  | .navResponseFrame fix ckA ckB => (.wire, frameWith navClass navId (payloadOfFix fix) ckA ckB)
  | .cfgQueryFrame cls id ckA ckB => (.wire, frameWith cls id [] ckA ckB)
  | .cfgWriteFrame cls id payload ckA ckB => (.wire, frameWith cls id payload ckA ckB)
  | .rstFrame cls id byte0 variant ckA ckB => (.wire, frameWith cls id [byte0, variant] ckA ckB)
  | .sentence body => (.wire, dollar :: body ++ [newline])

/-! ## The words of the opcode table -/

/-- The `n` bytes of `w`, byte 0 its bits 7..0. -/
def bytesOfWord : Nat → Nat → Bytes
  | 0, _ => []
  | n + 1, w => BitVec.ofNat 8 (w % 256) :: bytesOfWord n (w / 256)

/-- `bytes` continued with zeros up to `n` bytes. -/
def zeroExtend (n : Nat) (bytes : Bytes) : Bytes := bytes ++ List.replicate (n - bytes.length) 0

/-- A wire row whose leading part the table gives, made whole: the operand bytes above it are zero; a sentence, whose
length is not carried (R100), is closed by its fixed end delimiter (log 13). -/
def completeWire (bytes : Bytes) : Bytes :=
  if bytes.head? = some dollar then
    if bytes.tail.getLast? = some newline then bytes else bytes ++ [newline]
  else
    let header := zeroExtend headerSize bytes
    zeroExtend (frameLength (le16 (header.getD 4 0) (header.getD 5 0)).toNat) header

/-- Where the table's word stands and what it is: one byte is a command, but for the byte 0x24 that the table gives the
row SENTENCE (log 13); anything longer is a wire row. -/
def tableWords (nbits w : Nat) : Port × Bytes :=
  let bytes := bytesOfWord (nbits / 8) w
  if nbits ≤ 8 ∧ bytes.head? ≠ some dollar then (.command, bytes) else (.wire, completeWire bytes)

/-- The instruction the decoder reads from a word of the opcode table, in the default configuration. -/
def decodeTableWord (nbits w : Nat) : Option Instr :=
  match decode Config.default (tableWords nbits w).1 (tableWords nbits w).2 with
  | .ok i => some i
  | .error _ => none

end Sys2Proof
end

