-- ==== Sys2Proof/Machine/State.lean ====
section
/-! DEFINITION. The complete state of one UBXFP instance (R20 of 10_state.md), the environment a model must carry (R34),
the moves of the outside world that are still to come (log 2), and the state after reset (R36, R230). -/

namespace Sys2Proof.Machine

/-- A byte space indexed from 0 (R60): (index, byte) pairs, indexes strictly rising, no entry equal to what an unlisted
index reads as (`Memory.unlisted` of Ops.lean). -/
abbrev Memory := List Host.Cell

/-- The status codes (R104). -/
inductive Status where
  | success
  | shortRead
  | syncMismatch
  | classMismatch
  | idMismatch
  | lengthMismatch
  | checksumMismatch
  | encodeOverflow
  | capacityExceeded
  | transmitFailed
  | illegalOp
  | wrongMode
  | badOperand
deriving DecidableEq, Repr

/-- The poll event codes (R105). -/
inductive PollEvent where
  | none
  | accumulated
  | published
  | dropped
deriving DecidableEq, Repr

/-- The operand registers (R20, R21). The host writes them; the block never does. -/
structure Operands where
  opc : Byte
  argClass : Byte
  argId : Byte
  argLen : U16
  expClass : Byte
  expId : Byte
  expLen : U16
  argFmt : Byte
  argOn : Bool
  argRst : Byte
deriving DecidableEq, Repr

/-- The ReceiveSession (R26): RX_COUNT, RX_CKA, RX_CKB. -/
structure ReceiveSession where
  count : Nat
  ckA : Byte
  ckB : Byte
deriving DecidableEq, Repr

/-- The environment a model must carry (R34, R69): RXQ (head first), the TX stream (oldest first), and the draws of the
transport calls to come. `drawCount` counts the free draws taken (the model's own, log 3). -/
structure Env where
  rxq : Bytes
  tx : Bytes
  draws : List Draw
  drawCount : Nat
deriving DecidableEq, Repr

/-- The host's side of the port. `inputs` are the scripted moves to come, `inputCount` counts the free inputs taken
(log 2); `data` is what the host's last read returned and `freeCount` counts the free bytes handed out (log 9). All the
model's own. -/
structure HostSide where
  inputs : List Input
  inputCount : Nat
  data : Nat
  freeCount : Nat
deriving DecidableEq, Repr

/-- The machine: the instance's parameters, the state of R20, the environment, the host's side. -/
structure State where
  /-- The parameters of R10; no step changes them (R35). -/
  cfg : Config
  /-- MODE (R25). -/
  mode : Mode
  /-- OPC and the ARG_ and EXP_ registers (R21). -/
  opnd : Operands
  /-- STATUS (R22). -/
  status : Status
  /-- RES_EVENT (R22). -/
  event : PollEvent
  /-- RES_LEN (R22). -/
  resLen : Nat
  /-- RES_CKA (R22). -/
  resCkA : Byte
  /-- RES_CKB (R22). -/
  resCkB : Byte
  /-- FIX.* (R32). -/
  fix : PositionFix
  /-- RX_COUNT, RX_CKA, RX_CKB (R26). -/
  session : ReceiveSession
  /-- FB (R27). -/
  fb : Memory
  /-- LB (R28). -/
  lb : Memory
  /-- LB_CURSOR (R28). -/
  lbCursor : Nat
  /-- IDLE_COUNT (R29). -/
  idleCount : Nat
  /-- CB (R30). -/
  cb : Memory
  /-- CB_LEN (R30). -/
  cbLen : Nat
  /-- PIN (R33). -/
  pin : Memory
  /-- POUT (R33). -/
  pout : Memory
  /-- RXQ, the TX stream and the transport's draws (R34). -/
  env : Env
  /-- The host's side. -/
  host : HostSide
  /-- The model's own (log 9): the last command was an ENCODE that ended with Success (R27, U2). -/
  frameReady : Bool
deriving DecidableEq, Repr

/-- What stops the machine: nothing does. Every error is a value of STATUS and the block keeps running (R200), every
access stays inside its space (R65), and a configuration outside its constraints cannot be written down (U16). The type
has no constructor, which says so once for every step: safe. -/
inductive Fault : Type
deriving DecidableEq, Repr

/-- Why an instruction has no meaning. -/
inductive Refusal where
  /-- Raised by exec for an instruction not modelled yet, and by nothing else; no arm of exec raises it. Safe. -/
  | notModelled (mnemonic : String)
deriving DecidableEq, Repr

/-- The operand registers after reset: unspecified by R36. DESIGN CHOICE zero (log 4), unsafe. -/
def Operands.zero : Operands :=
  { opc := 0, argClass := 0, argId := 0, argLen := 0, expClass := 0, expId := 0, expLen := 0
    argFmt := 0, argOn := false, argRst := 0 }

/-- The FIX registers after reset: unspecified by R36. DESIGN CHOICE zero (log 4), unsafe. -/
def fixZero : PositionFix :=
  { timeOfWeek := 0, longitude := 0, latitude := 0, heightAboveEllipsoid := 0, heightAboveMeanSeaLevel := 0
    horizontalAccuracyEstimate := 0, verticalAccuracyEstimate := 0 }

/-- The machine right after reset (R36, R230). STATUS, RES_EVENT, LB_CURSOR, IDLE_COUNT and CB_LEN have the values of
R36. DESIGN CHOICE, unsafe: zero where R36 says unspecified (log 4), no byte listed (log 5), the default configuration,
the strap FRAMED, an empty RXQ and TX stream (log 6), no scripted draw and no scripted input (log 2, log 3). -/
def State.reset : State :=
  { cfg := Config.default
    mode := .framed
    opnd := Operands.zero
    status := .success
    event := .none
    resLen := 0
    resCkA := 0
    resCkB := 0
    fix := fixZero
    session := { count := 0, ckA := 0, ckB := 0 }
    fb := []
    lb := []
    lbCursor := 0
    idleCount := 0
    cb := []
    cbLen := 0
    pin := []
    pout := []
    env := { rxq := [], tx := [], draws := [], drawCount := 0 }
    host := { inputs := [], inputCount := 0, data := 0, freeCount := 0 }
    frameReady := false }

end Sys2Proof.Machine
end

