-- ==== Sys2Proof/Machine/Ops.lean ====
section
/-! DEFINITION. The named operations every command is written with: the byte spaces (R60, R63), the Checksum Engine (R120),
the three transport primitives (R66 to R68), ending a command with a status (R200, R206: this block's counterpart of
taking an exception), and the internal procedures EncodeFrame, Transmit and DecodeFrame (R130, R132, R133). -/

namespace Sys2Proof.Machine

/-! ## Byte spaces -/

/-- What an index that nothing has written reads as. The spec gives the buffers no contents at reset (R36).
DESIGN CHOICE (log 5), unsafe. -/
def Memory.unlisted : Byte := 0x00

/-- `SPACE[i]` (R13). -/
def Memory.read (m : Memory) (i : Nat) : Byte :=
  match m with
  | [] => Memory.unlisted
  | (k, v) :: rest => if k = i then v else Memory.read rest i

/-- A cell put in its place in a rising list. -/
def Memory.insertCell (c : Host.Cell) (m : Memory) : Memory :=
  match m with
  | [] => [c]
  | d :: rest => if c.1 < d.1 then c :: d :: rest else d :: Memory.insertCell c rest

/-- `SPACE[i] <- b` (R13), keeping the canonical form: writing the unlisted value removes the entry. -/
def Memory.write (m : Memory) (i : Nat) (b : Byte) : Memory :=
  if b = Memory.unlisted then m.filter (fun c => decide (c.1 ≠ i))
  else Memory.insertCell (i, b) (m.filter (fun c => decide (c.1 ≠ i)))

/-- `SPACE[i .. i+n-1]`, lowest index first (R13). -/
def Memory.readRange (m : Memory) (i n : Nat) : Bytes :=
  match n with
  | 0 => []
  | n + 1 => m.read i :: Memory.readRange m (i + 1) n

/-- `SPACE[i .. i+|s|-1] <- s`, lowest index first (R13). -/
def Memory.writeRange (m : Memory) (i : Nat) (s : Bytes) : Memory :=
  match s with
  | [] => m
  | b :: rest => Memory.writeRange (m.write i b) (i + 1) rest

/-- The canonical form: indexes strictly rising, no entry equal to the unlisted value. -/
def Memory.wf (m : Memory) : Bool :=
  match m with
  | [] => true
  | (i, b) :: rest =>
    decide (b ≠ Memory.unlisted) && rest.all (fun c => decide (i < c.1)) && Memory.wf rest

/-- Every listed index lies below the size of the space (R65). -/
def Memory.below (m : Memory) (size : Nat) : Bool := m.all (fun c => decide (c.1 < size))

/-! ## The Checksum Engine -/

/-- One turn of the loop of R120: ckB uses the new ckA; both sums wrap modulo 256. -/
def checksumStep (ck : Byte × Byte) (b : Byte) : Byte × Byte := (ck.1 + b, ck.2 + (ck.1 + b))

/-- `Checksum(s)` (R120). -/
def checksum (s : Bytes) : Byte × Byte := s.foldl checksumStep (0, 0)

/-! ## The transport contract -/

/-- The draw of the next transport call: the scripted one, else the free value (log 3). -/
def Env.draw (e : Env) : Draw :=
  match e.draws with
  | d :: _ => d
  | [] => Config.freeDraw e.drawCount

/-- The draws left after one transport call. -/
def Env.advance (e : Env) : Env :=
  match e.draws with
  | _ :: rest => { e with draws := rest }
  | [] => { e with drawCount := e.drawCount + 1 }

/-- The peer appends bytes to the tail of RXQ (R69). -/
def Env.deliver (e : Env) (bytes : Bytes) : Env := { e with rxq := e.rxq ++ bytes }

/-- The count a TWrite of `s` returns: any number in `0 .. |s|` (R66). -/
def Env.accepted (e : Env) (s : Bytes) : Nat := min e.draw.accepts s.length

/-- `TWrite(s)` (R66): the first `w` bytes of `s` go to the TX stream. -/
def tWrite (e : Env) (s : Bytes) : Nat × Env :=
  (e.accepted s, ({ e.advance with tx := e.tx ++ s.take (e.accepted s) }).deliver e.draw.after)

/-- What a TReadExact for `count` bytes sees: RXQ, and the bytes that arrive while the call waits; a call that finds
`count` bytes in RXQ does not wait (R67). -/
def Env.visible (e : Env) (count : Nat) : Bytes :=
  if count ≤ e.rxq.length then e.rxq else e.rxq ++ e.draw.waits

/-- `TReadExact(count, timeoutMs)` (R67): destructive, also when it comes back short. The timeout is a number handed to
the transport; no rule's result depends on it (R245, log 15). -/
def tReadExact (e : Env) (count : Nat) (_timeoutMs : Nat) : Bytes × Env :=
  ((e.visible count).take count,
    ({ e.advance with rxq := (e.visible count).drop count }).deliver e.draw.after)

/-- `TBuffered()` (R68): the length of RXQ at the moment of the call; bytes that arrive afterwards stand behind. -/
def tBuffered (e : Env) : Nat × Env := (e.rxq.length, e.advance.deliver e.draw.after)

/-! ## Ending a command -/

/-- A command ends: its status is written and nothing else happens (R200). The saved registers, vectors and modes of an
exception have no counterpart here (R206), and there is nothing to return from (R207). -/
def State.finish (s : State) (st : Status) : State := { s with status := st }

/-- The peer's bytes reach RXQ between two commands (R69). -/
def State.peerDelivers (s : State) (bytes : Bytes) : State := { s with env := s.env.deliver bytes }

/-! ## EncodeFrame, Transmit, DecodeFrame -/

/-- `FB[2 .. 5+L]` of a frame as a sequence: class, id, len low, len high, payload (R93). -/
def frameBody (cls id : Byte) (payload : Bytes) : Bytes :=
  [cls, id, lenLow payload.length, lenHigh payload.length] ++ payload

/-- The frame of R90 with the checksum pair of R93 in its trailer. -/
def frameBytes (cls id : Byte) (payload : Bytes) : Bytes :=
  frameWith cls id payload (checksum (frameBody cls id payload)).1 (checksum (frameBody cls id payload)).2

/-- `EncodeFrame(c, i, p)` (R130): the overflow test comes before any byte of FB is written. -/
def encodeFrame (s : State) (cls id : Byte) (payload : Bytes) : Status × State :=
  if s.cfg.maxFrame < frameLength payload.length then (.encodeOverflow, s)
  else (.success, { s with fb := s.fb.writeRange 0 (frameBytes cls id payload) })

/-- `Transmit(N)` (R132): one TWrite of FB[0 .. N-1]. -/
def transmit (s : State) (n : Nat) : Status × State :=
  let call := tWrite s.env (s.fb.readRange 0 n)
  (if call.1 = n then .success else .transmitFailed, { s with env := call.2 })

/-- The state when DecodeFrame's one read has returned: a fresh ReceiveSession, the bytes in FB from index 0 (R133). -/
def receive (s : State) (payloadLength : Nat) : State :=
  let call := tReadExact s.env (frameLength payloadLength) s.cfg.readTimeoutMs
  { s with
    env := call.2
    fb := s.fb.writeRange 0 call.1
    session := { count := call.1.length, ckA := 0, ckB := 0 } }

/-- Checks (b) to (f) of R133 on FB, in their order; `none` when all pass. -/
def headerFailure (fb : Memory) (cls id : Byte) (payloadLength : Nat) : Option Status :=
  if fb.read 0 ≠ sync1 then some .syncMismatch
  else if fb.read 1 ≠ sync2 then some .syncMismatch
  else if fb.read 2 ≠ cls then some .classMismatch
  else if fb.read 3 ≠ id then some .idMismatch
  else if (le16 (fb.read 4) (fb.read 5)).toNat ≠ payloadLength then some .lengthMismatch
  else none

/-- Step (g) of R133: the recomputed pair goes to the ReceiveSession and is compared with the trailer. -/
def checkTrailer (s : State) (payloadLength : Nat) : Status × State :=
  let pair := checksum (s.fb.readRange 2 (4 + payloadLength))
  (if s.fb.read (6 + payloadLength) = pair.1 ∧ s.fb.read (7 + payloadLength) = pair.2 then .success
    else .checksumMismatch,
    { s with session := { count := s.session.count, ckA := pair.1, ckB := pair.2 } })

/-- `DecodeFrame(c, i, L)` (R133): checks (a) to (g), the first failure wins (R135). -/
def decodeFrame (s : State) (cls id : Byte) (payloadLength : Nat) : Status × State :=
  let s := receive s payloadLength
  if s.session.count ≠ frameLength payloadLength then (.shortRead, s)
  else
    match headerFailure s.fb cls id payloadLength with
    | some failure => (failure, s)
    | none => checkTrailer s payloadLength

/-- The payload of the frame standing in FB: FB[6 .. 5+L] (R133). -/
def State.framePayload (s : State) (payloadLength : Nat) : Bytes := s.fb.readRange headerSize payloadLength

end Sys2Proof.Machine
end

