-- ==== Sys2Proof/Machine/Operands.lean ====
section
/-! DEFINITION. The operands of the commands: what each reads from the operand registers and PIN (R21, R102), and the checks
of mode and operand that come before a command does anything (R192 to R194). -/

namespace Sys2Proof.Machine

/-- ARG_LEN as a number. -/
def State.argLength (s : State) : Nat := s.opnd.argLen.toNat

/-- EXP_LEN as a number. -/
def State.expLength (s : State) : Nat := s.opnd.expLen.toNat

/-- PIN[0 .. ARG_LEN-1]: the request payload or the bytes to checksum (R33). Bytes above are ignored (D36). -/
def State.argPayload (s : State) : Bytes := s.pin.readRange 0 s.argLength

/-- The bit index ARG_FMT as a number (R173). -/
def State.formatBit (s : State) : Nat := s.opnd.argFmt.toNat

/-- The payload of the receiver reset: RST_BYTE0, ARG_RST (R99, R174). -/
def State.resetPayload (s : State) : Bytes := [s.cfg.rstByte0, s.opnd.argRst]

/-- The expected frame fits FB: the first check of R193. -/
def State.expectationFits (s : State) : Bool := decide (frameLength s.expLength ≤ s.cfg.maxFrame)

/-- ARG_FMT names a bit of a byte: the second check of R193. -/
def State.formatBitLegal (s : State) : Bool := decide (s.formatBit ≤ 7)

/-- Mode gating (R192): in the other mode the command is refused with WrongMode and nothing else changes. -/
def whenMode (m : Mode) (body : State → State) (s : State) : State :=
  if s.mode = m then body s else s.finish .wrongMode

/-- An operand check (R193): refused with BadOperand and nothing else changes. -/
def whenOperand (ok : State → Bool) (body : State → State) (s : State) : State :=
  if ok s then body s else s.finish .badOperand

/-- The size of PIN and of POUT: the most R60 allows (log 11). -/
def hostSpaceSize : Nat := 65535

/-- Every write of the block into POUT: `POUT[0 .. |s|-1] <- s`, lowest index first (R13), never outside the space (R65).
A payload has at most 65535 bytes, so only a sentence of a LINE_CAPACITY above 65535 could be longer; what POUT has no
place for is not written (log 11). -/
def Memory.copyOut (pout : Memory) (s : Bytes) : Memory := pout.writeRange 0 (s.take hostSpaceSize)

/-- Delivery of a received payload (R76): POUT[0 .. L-1] <- FB[6 .. 5+L], RES_LEN <- L, on full success only. -/
def deliverPayload (s : State) (payloadLength : Nat) : State :=
  { s with pout := s.pout.copyOut (s.framePayload payloadLength), resLen := payloadLength }

end Sys2Proof.Machine
end

