-- ==== Sys2Proof/Machine/Flags.lean ====
section
/-! DEFINITION. What plays the part of flags (R24): the sentence-pending predicate, the collector's state, the idle counter
and the flush test, the set-or-clear of one format bit, the frame trailer test; and the numeric codes of STATUS and
RES_EVENT. -/

namespace Sys2Proof.Machine

/-- The codes of R104. -/
def Status.code : Status → Byte
  | .success => 0x00
  | .shortRead => 0x01
  | .syncMismatch => 0x02
  | .classMismatch => 0x03
  | .idMismatch => 0x04
  | .lengthMismatch => 0x05
  | .checksumMismatch => 0x06
  | .encodeOverflow => 0x07
  | .capacityExceeded => 0x08
  | .transmitFailed => 0x09
  | .illegalOp => 0x0A
  | .wrongMode => 0x0B
  | .badOperand => 0x0C

/-- The codes of R105. -/
def PollEvent.code : PollEvent → Byte
  | .none => 0x00
  | .accumulated => 0x01
  | .published => 0x02
  | .dropped => 0x03

/-- IDLE_THRESHOLD (R10, R151; 90_conflicts.md C3). -/
def idleThreshold : Nat := 2

/-- "no sentence pending" is CB_LEN = 0 (R24, R30). -/
def State.sentencePending (s : State) : Bool := decide (s.cbLen ≠ 0)

/-- The collector is Idle when LB_CURSOR = 0, Accumulating otherwise (R31). -/
def State.collectorIdle (s : State) : Bool := decide (s.lbCursor = 0)

/-- The counter after one more empty poll: it holds at the threshold (R29, R125 (d)). -/
def idleTick (count : Nat) : Nat := min (count + 1) idleThreshold

/-- The flush condition of an empty poll (R150, R151): the counter has reached the threshold and bytes are buffered. -/
def State.flushDue (s : State) : Bool := decide (idleThreshold ≤ idleTick s.idleCount) && decide (0 < s.lbCursor)

/-- The delimiter test, a comparison of the first and last buffered byte (R153, R155). -/
def State.delimitersMatch (s : State) : Bool :=
  decide (s.lb.read 0 = dollar) && decide (s.lb.read (s.lbCursor - 1) = newline)

/-- `n` more bytes are within the capacity of LB, computed without wrap (R125 (c), R156). -/
def State.lineFits (s : State) (n : Nat) : Bool := decide (s.lbCursor + n ≤ s.cfg.lineCapacity)

/-- The set-or-clear of SETFMT on one byte (R125 (g), R173). -/
def setOrClear (b : Byte) (bit : Nat) (on : Bool) : Byte :=
  if on then b ||| ((1 : Byte) <<< bit) else b &&& ((0xFF : Byte) ^^^ ((1 : Byte) <<< bit))

/-- The configuration payload with the format bit changed; every other byte as received (R98, R173). -/
def setFormat (payload : Bytes) (bit : Nat) (on : Bool) : Bytes :=
  payload.set cfgFmtOffset (setOrClear (payload.getD cfgFmtOffset 0) bit on)

/-- The trailer of a frame is the checksum pair over its body (R93). -/
def frameTrailerOk (cls id : Byte) (payload : Bytes) (ckA ckB : Byte) : Bool :=
  decide (checksum (frameBody cls id payload) = (ckA, ckB))

end Sys2Proof.Machine
end

