-- ==== Sys2Proof/Machine/Acceptance.lean ====
section
/-! DEFINITION. The row ILLEGAL: an opcode that names no command (44_system_ops.md). -/

namespace Sys2Proof.Machine

/-- R191: STATUS <- IllegalOp, nothing else changes, no transport call, in either mode. -/
def execIllegal (_opc : Byte) (s : State) : Host.Outcome State Fault Refusal := .next (s.finish .illegalOp)

end Sys2Proof.Machine
end

