-- ==== Sys2Proof/Machine/ChecksumEngine.lean ====
section
/-! DEFINITION. The command CKSUM (40_checksum.md). -/

namespace Sys2Proof.Machine

/-- R121: the pair over PIN[0 .. ARG_LEN-1]. -/
def cksumCommand (s : State) : State :=
  let pair := checksum s.argPayload
  ({ s with resCkA := pair.1, resCkB := pair.2 }).finish .success

/-- CKSUM, accepted in both modes (R121, R192). -/
def execCksum (s : State) : Host.Outcome State Fault Refusal := .next (cksumCommand s)

end Sys2Proof.Machine
end

