-- ==== Sys2Proof/Machine/FrameCodec.lean ====
section
/-! DEFINITION. The commands ENCODE and DECODE (41_frame_codec.md). -/

namespace Sys2Proof.Machine

/-- R131: on EncodeOverflow RES_LEN and FB are unchanged. `frameReady` is the model's own record that the host may read
FB[0 .. RES_LEN-1] now (R27, log 9). -/
def encodeCommand (s : State) : State :=
  match encodeFrame s s.opnd.argClass s.opnd.argId s.argPayload with
  | (.success, t) => ({ t with resLen := frameLength s.argLength, frameReady := true }).finish .success
  | (failure, t) => t.finish failure

/-- ENCODE, accepted in both modes (R131, R192). -/
def execEncode (s : State) : Host.Outcome State Fault Refusal := .next (encodeCommand s)

/-- R134 after acceptance: POUT and RES_LEN change on Success only. -/
def decodeCommandBody (s : State) : State :=
  match decodeFrame s s.opnd.expClass s.opnd.expId s.expLength with
  | (.success, t) => (deliverPayload t s.expLength).finish .success
  | (failure, t) => t.finish failure

/-- DECODE, accepted in FRAMED only, refused when the expected frame does not fit FB (R134, R193). -/
def execDecode (s : State) : Host.Outcome State Fault Refusal :=
  .next (whenMode .framed (whenOperand State.expectationFits decodeCommandBody) s)

end Sys2Proof.Machine
end

