-- ==== Sys2Proof/Machine/LineCollector.lean ====
section
/-! DEFINITION. The commands POLL, RDSENT and LCRESET (42_line_collector.md). -/

namespace Sys2Proof.Machine

/-- The flush of R150: publish when the delimiters match (R153), drop otherwise (R154); in both cases the cursor and the
counter go to zero. -/
def flushLine (s : State) : State :=
  if s.delimitersMatch then
    { s with
      cb := s.cb.writeRange 0 (s.lb.readRange 0 s.lbCursor)
      cbLen := s.lbCursor
      event := .published
      lbCursor := 0
      idleCount := 0 }
  else { s with event := .dropped, lbCursor := 0, idleCount := 0 }

/-- A poll that found no byte (R150, R152). -/
def emptyPoll (s : State) : State :=
  if s.flushDue then (flushLine s).finish .success
  else ({ s with idleCount := idleTick s.idleCount, event := .none }).finish .success

/-- A poll that found `n > 0` bytes: the counter is zeroed first, then the capacity is tested (R150, R156). -/
def fullPoll (s : State) (n : Nat) : State :=
  if s.lineFits n then
    let call := tReadExact s.env n s.cfg.readTimeoutMs
    ({ s with
      idleCount := 0
      env := call.2
      lb := s.lb.writeRange s.lbCursor call.1
      lbCursor := s.lbCursor + n
      event := .accumulated }).finish .success
  else ({ s with idleCount := 0 }).finish .capacityExceeded

/-- R150 after acceptance. -/
def pollCommand (s : State) : State :=
  let call := tBuffered s.env
  let t := { s with env := call.2 }
  if call.1 = 0 then emptyPoll t else fullPoll t call.1

/-- POLL, accepted in FREERUN only (R150, R192). -/
def execPoll (s : State) : Host.Outcome State Fault Refusal := .next (whenMode .freerun pollCommand s)

/-- R157 after acceptance: an atomic read-and-clear (R72). -/
def rdsentCommand (s : State) : State :=
  ({ s with
    pout := s.pout.copyOut (s.cb.readRange 0 s.cbLen)
    resLen := s.cbLen
    cbLen := 0 }).finish .success

/-- RDSENT, accepted in FREERUN only (R157, R192). -/
def execRdsent (s : State) : Host.Outcome State Fault Refusal := .next (whenMode .freerun rdsentCommand s)

/-- R158 after acceptance. -/
def lcresetCommand (s : State) : State := ({ s with lbCursor := 0, idleCount := 0 }).finish .success

/-- LCRESET, accepted in FREERUN only (R158, R192). -/
def execLcreset (s : State) : Host.Outcome State Fault Refusal := .next (whenMode .freerun lcresetCommand s)

end Sys2Proof.Machine
end

