-- ==== Sys2Proof/Machine/ProtocolClient.lean ====
section
/-! DEFINITION. The commands REQRESP, GETFIX, SETFMT and APPLYRST (43_protocol_client.md). -/

namespace Sys2Proof.Machine

/-- EncodeFrame then Transmit: the first half of every exchange (R170, R171, R173, R174). -/
def sendFrame (s : State) (cls id : Byte) (payload : Bytes) : Status × State :=
  match encodeFrame s cls id payload with
  | (.success, t) => transmit t (frameLength payload.length)
  | (failure, t) => (failure, t)

/-- One exchange: send the request, then at once DecodeFrame the response; RXQ is not flushed first (R170, R175). -/
def exchange (s : State) (cls id : Byte) (request : Bytes) (expCls expId : Byte) (expLen : Nat) : Status × State :=
  match sendFrame s cls id request with
  | (.success, t) => decodeFrame t expCls expId expLen
  | (failure, t) => (failure, t)

/-- R170 after acceptance. -/
def reqrespCommand (s : State) : State :=
  match exchange s s.opnd.argClass s.opnd.argId s.argPayload s.opnd.expClass s.opnd.expId s.expLength with
  | (.success, t) => (deliverPayload t s.expLength).finish .success
  | (failure, t) => t.finish failure

/-- REQRESP, accepted in FRAMED only, refused when the expected frame does not fit FB (R170, R193). -/
def execReqresp (s : State) : Host.Outcome State Fault Refusal :=
  .next (whenMode .framed (whenOperand State.expectationFits reqrespCommand) s)

/-- R171: the seven FIX registers change together, on Success only; POUT and RES_LEN are not written. -/
def getfixCommand (s : State) : State :=
  match exchange s navClass navId [] navClass navId navLen with
  | (.success, t) => ({ t with fix := fixOfPayload (t.framePayload navLen) }).finish .success
  | (failure, t) => t.finish failure

/-- GETFIX, accepted in FRAMED only (R171, R192). -/
def execGetfix (s : State) : Host.Outcome State Fault Refusal := .next (whenMode .framed getfixCommand s)

/-- R173 after acceptance: query, read, change one bit of byte 14, write back. No reply to the second frame is read
(R177). -/
def setfmtCommand (s : State) : State :=
  match exchange s s.cfg.cfgClass s.cfg.cfgId [] s.cfg.cfgClass s.cfg.cfgId cfgLen with
  | (.success, t) =>
    let back := sendFrame t s.cfg.cfgClass s.cfg.cfgId
      (setFormat (t.framePayload cfgLen) s.formatBit s.opnd.argOn)
    back.2.finish back.1
  | (failure, t) => t.finish failure

/-- SETFMT, accepted in FRAMED only, refused when ARG_FMT is above 7 (R173, R193). -/
def execSetfmt (s : State) : Host.Outcome State Fault Refusal :=
  .next (whenMode .framed (whenOperand State.formatBitLegal setfmtCommand) s)

/-- R174: one frame, nothing is read. -/
def applyrstCommand (s : State) : State :=
  let sent := sendFrame s s.cfg.rstClass s.cfg.rstId s.resetPayload
  sent.2.finish sent.1

/-- APPLYRST, accepted in FRAMED only (R174, R192). -/
def execApplyrst (s : State) : Host.Outcome State Fault Refusal := .next (whenMode .framed applyrstCommand s)

end Sys2Proof.Machine
end

