-- ==== Sys2Proof/Machine/WireFormats.lean ====
section
/-! DEFINITION. The rows of the opcode table that are formats of the wire (30_encoding.md R90 to R100). As an event of the
machine a row is the arrival of its bytes from the peer: they are appended to the tail of RXQ, at any time, in either
mode, whatever they are (R9, R69; log 1). What the block itself transmits is in ProtocolClient.lean. -/

namespace Sys2Proof.Machine

/-- UBX_FRAME (R90). -/
def execUbxFrame (cls id : Byte) (payload : Bytes) (ckA ckB : Byte) (s : State) : Host.Outcome State Fault Refusal :=
  .next (s.peerDelivers (encode (.ubxFrame cls id payload ckA ckB)).2)

/-- NAV_POLL_FRAME (R171). -/
def execNavPollFrame (s : State) : Host.Outcome State Fault Refusal :=
  .next (s.peerDelivers (encode .navPollFrame).2)

/-- NAV_RESPONSE_FRAME (R97). -/
def execNavResponseFrame (fix : PositionFix) (ckA ckB : Byte) (s : State) : Host.Outcome State Fault Refusal :=
  .next (s.peerDelivers (encode (.navResponseFrame fix ckA ckB)).2)

/-- CFG_QUERY_FRAME (R96, R173). -/
def execCfgQueryFrame (cls id ckA ckB : Byte) (s : State) : Host.Outcome State Fault Refusal :=
  .next (s.peerDelivers (encode (.cfgQueryFrame cls id ckA ckB)).2)

/-- CFG_WRITE_FRAME (R96, R98). -/
def execCfgWriteFrame (cls id : Byte) (payload : Bytes) (ckA ckB : Byte) (s : State) :
    Host.Outcome State Fault Refusal :=
  .next (s.peerDelivers (encode (.cfgWriteFrame cls id payload ckA ckB)).2)

/-- RST_FRAME (R99). -/
def execRstFrame (cls id byte0 variant ckA ckB : Byte) (s : State) : Host.Outcome State Fault Refusal :=
  .next (s.peerDelivers (encode (.rstFrame cls id byte0 variant ckA ckB)).2)

/-- SENTENCE (R100). -/
def execSentence (body : Bytes) (s : State) : Host.Outcome State Fault Refusal :=
  .next (s.peerDelivers (encode (.sentence body)).2)

end Sys2Proof.Machine
end

