-- ==== Sys2Proof/Machine/Dispatch.lean ====
section
/-! DEFINITION. One arm per row of the opcode table, each a call of that row's meaning. -/

namespace Sys2Proof.Machine

def exec (i : Instr) (s : State) : Host.Outcome State Fault Refusal :=
  match i with
  | .cksum => Sys2Proof.Machine.execCksum s
  | .encode => Sys2Proof.Machine.execEncode s
  | .decode => Sys2Proof.Machine.execDecode s
  | .reqresp => Sys2Proof.Machine.execReqresp s
  | .getfix => Sys2Proof.Machine.execGetfix s
  | .setfmt => Sys2Proof.Machine.execSetfmt s
  | .applyrst => Sys2Proof.Machine.execApplyrst s
  | .poll => Sys2Proof.Machine.execPoll s
  | .rdsent => Sys2Proof.Machine.execRdsent s
  | .lcreset => Sys2Proof.Machine.execLcreset s
  | .illegal opc => Sys2Proof.Machine.execIllegal opc s
  | .ubxFrame cls id payload ckA ckB => Sys2Proof.Machine.execUbxFrame cls id payload ckA ckB s
  | .navPollFrame => Sys2Proof.Machine.execNavPollFrame s
  | .navResponseFrame fix ckA ckB => Sys2Proof.Machine.execNavResponseFrame fix ckA ckB s
  | .cfgQueryFrame cls id ckA ckB => Sys2Proof.Machine.execCfgQueryFrame cls id ckA ckB s
  | .cfgWriteFrame cls id payload ckA ckB => Sys2Proof.Machine.execCfgWriteFrame cls id payload ckA ckB s
  | .rstFrame cls id byte0 variant ckA ckB => Sys2Proof.Machine.execRstFrame cls id byte0 variant ckA ckB s
  | .sentence body => Sys2Proof.Machine.execSentence body s

end Sys2Proof.Machine
end

