-- ==== Sys2Proof/Machine/HostPort.lean ====
section
/-! DEFINITION. What the outside world does to the block between commands (R8, R9, R195, R230): operand writes, result reads,
the reset input, a reset in the middle of a command (U14), and which input comes next. -/

namespace Sys2Proof.Machine

/-- The host writes an operand register or a byte of a host-owned space (R21, R33). -/
def State.hostWrite (s : State) (w : HostWrite) : State :=
  match w with
  | .argClass b => { s with opnd := { s.opnd with argClass := b } }
  | .argId b => { s with opnd := { s.opnd with argId := b } }
  | .argLen n => { s with opnd := { s.opnd with argLen := n } }
  | .expClass b => { s with opnd := { s.opnd with expClass := b } }
  | .expId b => { s with opnd := { s.opnd with expId := b } }
  | .expLen n => { s with opnd := { s.opnd with expLen := n } }
  | .argFmt b => { s with opnd := { s.opnd with argFmt := b } }
  | .argOn on => { s with opnd := { s.opnd with argOn := on } }
  | .argRst b => { s with opnd := { s.opnd with argRst := b } }
  | .pin i b => { s with pin := s.pin.write i.val b }
  | .pout i b => { s with pout := s.pout.write i.val b }

/-- One FIX register as the host reads it: its 32 bits (R32). -/
def fixValue (f : PositionFix) : FixField → U32
  | .timeOfWeek => f.timeOfWeek
  | .longitude => f.longitude
  | .latitude => f.latitude
  | .heightAboveEllipsoid => f.heightAboveEllipsoid
  | .heightAboveMeanSeaLevel => f.heightAboveMeanSeaLevel
  | .horizontalAccuracyEstimate => f.horizontalAccuracyEstimate
  | .verticalAccuracyEstimate => f.verticalAccuracyEstimate

/-- FB[i] holds defined content for the host: only directly after an ENCODE that ended with Success, and only below
RES_LEN (R27, U2). -/
def State.frameByteDefined (s : State) (i : Nat) : Bool := s.frameReady && decide (i < s.resLen)

/-- What a host read returns. Outside the one defined case a byte of FB reads as a free value (R27, log 9). -/
def State.portValue (s : State) (p : HostPort) : Nat :=
  match p with
  | .opc => s.opnd.opc.toNat
  | .argClass => s.opnd.argClass.toNat
  | .argId => s.opnd.argId.toNat
  | .argLen => s.opnd.argLen.toNat
  | .expClass => s.opnd.expClass.toNat
  | .expId => s.opnd.expId.toNat
  | .expLen => s.opnd.expLen.toNat
  | .argFmt => s.opnd.argFmt.toNat
  | .argOn => s.opnd.argOn.toNat
  | .argRst => s.opnd.argRst.toNat
  | .status => s.status.code.toNat
  | .resEvent => s.event.code.toNat
  | .resLen => s.resLen
  | .resCkA => s.resCkA.toNat
  | .resCkB => s.resCkB.toNat
  | .fix f => (fixValue s.fix f).toNat
  | .cbLen => s.cbLen
  | .fb i => if s.frameByteDefined i then (s.fb.read i).toNat else (Config.freeByte s.host.freeCount).toNat
  | .pin i => (s.pin.read i.val).toNat
  | .pout i => (s.pout.read i.val).toNat

/-- The host reads: the value goes to the host, the block is as before (R63). -/
def State.hostRead (s : State) (p : HostPort) : State :=
  { s with host := { s.host with data := s.portValue p, freeCount := s.host.freeCount + 1 } }

/-- Reset asserted and released (R230, R231): the block is as `State.reset` says, with the strap's mode; the parameters,
the host-owned spaces and the transport are untouched (R36). -/
def hardwareReset (strap : Mode) (s : State) : State :=
  { State.reset with
    cfg := s.cfg, mode := strap, pin := s.pin, pout := s.pout, env := s.env, host := s.host }

/-! ## Reset in the middle of a command (R230, U14; log 8) -/

/-- The environment after the one transport call of a send, if EncodeFrame lets it happen (R130, R132). -/
def sendPoints (s : State) (cls id : Byte) (payload : Bytes) : List Env :=
  match encodeFrame s cls id payload with
  | (.success, t) => [(transmit t (frameLength payload.length)).2.env]
  | (_, _) => []

/-- The environment after each transport call of an exchange: the write, and the read when the write succeeded (R170). -/
def exchangePoints (s : State) (cls id : Byte) (request : Bytes) (expLen : Nat) : List Env :=
  sendPoints s cls id request ++
    (match sendFrame s cls id request with
    | (.success, t) => [(receive t expLen).env]
    | (_, _) => [])

/-- The transport calls of POLL: TBuffered, then a read when bytes are there and fit (R150). -/
def pollPoints (s : State) : List Env :=
  let call := tBuffered s.env
  if call.1 ≠ 0 ∧ s.lineFits call.1 then [call.2, (tReadExact call.2 call.1 s.cfg.readTimeoutMs).2] else [call.2]

/-- The transport calls of SETFMT: the query, its response, and the second frame when the response was valid (R173). -/
def setfmtPoints (s : State) : List Env :=
  exchangePoints s s.cfg.cfgClass s.cfg.cfgId [] cfgLen ++
    (match exchange s s.cfg.cfgClass s.cfg.cfgId [] s.cfg.cfgClass s.cfg.cfgId cfgLen with
    | (.success, t) =>
      sendPoints t s.cfg.cfgClass s.cfg.cfgId (setFormat (t.framePayload cfgLen) s.formatBit s.opnd.argOn)
    | (_, _) => [])

/-- The environment after each transport call the instruction makes, in order (R71). A refused command makes none
(R194). -/
def transportPoints (i : Instr) (s : State) : List Env :=
  match i with
  | .decode => if s.mode = .framed ∧ s.expectationFits then [(receive s s.expLength).env] else []
  | .reqresp =>
    if s.mode = .framed ∧ s.expectationFits then
      exchangePoints s s.opnd.argClass s.opnd.argId s.argPayload s.expLength
    else []
  | .getfix => if s.mode = .framed then exchangePoints s navClass navId [] navLen else []
  | .setfmt => if s.mode = .framed ∧ s.formatBitLegal then setfmtPoints s else []
  | .applyrst => if s.mode = .framed then sendPoints s s.cfg.rstClass s.cfg.rstId s.resetPayload else []
  | .poll => if s.mode = .freerun then pollPoints s else []
  | .cksum => []
  | .encode => []
  | .rdsent => []
  | .lcreset => []
  | .illegal _ => []
  | .ubxFrame _ _ _ _ _ => []
  | .navPollFrame => []
  | .navResponseFrame _ _ _ => []
  | .cfgQueryFrame _ _ _ _ => []
  | .cfgWriteFrame _ _ _ _ _ => []
  | .rstFrame _ _ _ _ _ _ => []
  | .sentence _ => []

/-- The environment when reset cuts a command off after `calls` of its transport calls (all of them, when it makes
fewer): bytes already written stay sent, bytes already read are lost (R230). -/
def environmentAfter (i : Instr) (s : State) (calls : Nat) : Env :=
  (((transportPoints i s).take calls).getLast?).getD s.env

/-- What a DecodeFrame that ended copies to POUT: the payload, on Success only (R76). -/
def deliveredBytes (ended : Status × State) (payloadLength : Nat) : Bytes :=
  if ended.1 = .success then ended.2.framePayload payloadLength else []

/-- The bytes the instruction copies to POUT[0 ..] after its last transport call (R76, R157); a refused command and
every other instruction copies none. -/
def copiedBytes (i : Instr) (s : State) : Bytes :=
  match i with
  | .decode =>
    if s.mode = .framed ∧ s.expectationFits then
      deliveredBytes (decodeFrame s s.opnd.expClass s.opnd.expId s.expLength) s.expLength
    else []
  | .reqresp =>
    if s.mode = .framed ∧ s.expectationFits then
      deliveredBytes
        (exchange s s.opnd.argClass s.opnd.argId s.argPayload s.opnd.expClass s.opnd.expId s.expLength) s.expLength
    else []
  | .rdsent => if s.mode = .freerun then s.cb.readRange 0 s.cbLen else []
  | .cksum => []
  | .encode => []
  | .getfix => []
  | .setfmt => []
  | .applyrst => []
  | .poll => []
  | .lcreset => []
  | .illegal _ => []
  | .ubxFrame _ _ _ _ _ => []
  | .navPollFrame => []
  | .navResponseFrame _ _ _ => []
  | .cfgQueryFrame _ _ _ _ => []
  | .cfgWriteFrame _ _ _ _ _ => []
  | .rstFrame _ _ _ _ _ _ => []
  | .sentence _ => []

/-- POUT when reset cuts a command off: the copy runs lowest index first (R13) and begins after the last transport call
(R71), so POUT holds a beginning of it, and none while a call is still to come. -/
def copiedAfter (i : Instr) (s : State) (calls copied : Nat) : Memory :=
  if (transportPoints i s).length ≤ calls then s.pout.copyOut ((copiedBytes i s).take copied) else s.pout

/-- Reset asserted while the command runs: the command is abandoned, STATUS does not report it (R230). -/
def abandonCommand (i : Instr) (calls copied : Nat) (strap : Mode) (s : State) : State :=
  hardwareReset strap { s with env := environmentAfter i s calls, pout := copiedAfter i s calls copied }

/-! ## Which input comes next -/

/-- The host writes OPC (R101); what FB holds is no longer a delivered frame (R27, log 9). -/
def State.startCommand (s : State) (opc : Byte) : State :=
  { s with opnd := { s.opnd with opc := opc }, frameReady := false }

/-- The next move of the outside world: the scripted one, else the free value (log 2). -/
def State.nextInput (s : State) : Input :=
  match s.host.inputs with
  | input :: _ => input
  | [] => Config.freeInput s.host.inputCount

/-- The state once that move has been taken from the script. -/
def State.afterInput (s : State) : State :=
  match s.host.inputs with
  | _ :: rest => { s with host := { s.host with inputs := rest } }
  | [] => { s with host := { s.host with inputCount := s.host.inputCount + 1 } }

/-- What a step has to do: run an instruction, or it is done already. -/
inductive Fetched where
  | run (i : Instr) (s : State)
  | done (s : State)

/-- A command is decoded from OPC; bytes from the peer that are exactly one frame or sentence are that row; any other
bytes reach RXQ as they are (R9, R69). -/
def fetchFrom (input : Input) (s : State) : Fetched :=
  match input with
  | .idle => .done s
  | .write w => .done (s.hostWrite w)
  | .issue opc => .run (decodeCommand opc) (s.startCommand opc)
  | .read p => .done (s.hostRead p)
  | .arrive bytes =>
    match decodeWire s.cfg bytes with
    | .ok i => .run i s
    | .error _ => .done (s.peerDelivers bytes)
  | .reset strap => .done (hardwareReset strap s)
  | .abandon opc calls copied strap =>
    .done (abandonCommand (decodeCommand opc) calls copied strap (s.startCommand opc))

/-- The next move, ready to run. -/
def State.fetch (s : State) : Fetched := fetchFrom s.nextInput s.afterInput

/-- A word of the opcode table as an input: a command the host issues, or bytes that arrive from the peer (log 13). -/
def tableInput (nbits w : Nat) : Input :=
  match tableWords nbits w with
  | (.command, bytes) => .issue (bytes.getD 0 0)
  | (.wire, bytes) => .arrive bytes

end Sys2Proof.Machine
end

