-- ==== Sys2Proof/Machine/Step.lean ====
section
/-! DEFINITION. One step of the machine: the next move of the outside world, and the whole command it starts (R6, R190). -/

namespace Sys2Proof.Machine

/-- One step. The block has no program counter (R23): what runs next is the host's or the peer's move (log 2). -/
def step (s : State) : Host.Outcome State Fault Refusal :=
  match s.fetch with
  | .run i t => exec i t
  | .done t => .next t

/-- `s` with the opcode table's word as the very next move: OPC written by the host, or bytes arriving from the peer. It
stands for the host that issues a program (log 2). -/
def State.withFetchWord (s : State) (nbits w : Nat) : State :=
  { s with host := { s.host with inputs := tableInput nbits w :: s.host.inputs } }

end Sys2Proof.Machine
end

