-- ==== Sys2Proof/Safety.lean ====
section
/-! DEFINITION. What a good state is: the invariants the spec states between commands (R28, R29, R30, R65, R160) and the
canonical form of the byte spaces; a safe run is one whose every state is good. Then the terms the statements are made
in: the spec's own tables, written apart from the machine's code. -/

namespace Sys2Proof.Machine

/-- Every byte space is in its canonical form. -/
structure State.SpacesCanonical (s : State) : Prop where
  fb : s.fb.wf = true
  lb : s.lb.wf = true
  cb : s.cb.wf = true
  pin : s.pin.wf = true
  pout : s.pout.wf = true

/-- Every byte space is listed below its size only: no rule writes outside a space (R60, R65). -/
structure State.SpacesBounded (s : State) : Prop where
  fb : s.fb.below s.cfg.maxFrame = true
  lb : s.lb.below s.cfg.lineCapacity = true
  cb : s.cb.below s.cfg.lineCapacity = true
  pin : s.pin.below 65535 = true
  pout : s.pout.below 65535 = true

/-- The invariants of the line collector: the cursor (R28), the counter (R29), the completed buffer (R30), and R160. -/
structure State.CollectorGood (s : State) : Prop where
  cursor : s.lbCursor ≤ s.cfg.lineCapacity
  idle : s.idleCount ≤ idleThreshold
  completed : s.cbLen ≤ s.cfg.lineCapacity
  sentence : 0 < s.cbLen → 2 ≤ s.cbLen ∧ s.cb.read 0 = dollar ∧ s.cb.read (s.cbLen - 1) = newline
  accumulating : 0 < s.lbCursor → s.idleCount ≤ 1

/-- A good state. -/
structure State.Good (s : State) : Prop where
  canonical : s.SpacesCanonical
  bounded : s.SpacesBounded
  collector : s.CollectorGood

/-- The state after `k` steps; a step always answers a next state on this hardware. -/
def runsTo (k : Nat) (s t : State) : Prop :=
  match k with
  | 0 => t = s
  | k + 1 => ∃ u, step s = .next u ∧ runsTo k u t

/-- A safe state: every state reached from it is good. -/
def State.Safe (s : State) : Prop := ∀ k t, runsTo k s t → t.Good

/-! ## The spec's tables, for statements -/

/-- `SPACE[i .. i+n-1]` byte by byte (R13). -/
def spaceBytes (m : Memory) (i n : Nat) : Bytes := (List.range n).map (fun k => m.read (i + k))

/-- `n*s[0] + (n-1)*s[1] + ... + 1*s[n-1]` (R124). -/
def weightedSum (s : Bytes) : Nat :=
  ((List.range s.length).map (fun k => (s.length - k) * (s.getD k 0).toNat)).sum

/-- The outcome table of R141 on the bytes `r` one read returned. -/
def decodeOutcome (cls id : Byte) (payloadLength : Nat) (r : Bytes) : Status :=
  if r.length < 8 + payloadLength then .shortRead
  else if r.getD 0 0 ≠ 0xB5 then .syncMismatch
  else if r.getD 1 0 ≠ 0x62 then .syncMismatch
  else if r.getD 2 0 ≠ cls then .classMismatch
  else if r.getD 3 0 ≠ id then .idMismatch
  else if (r.getD 4 0).toNat + 256 * (r.getD 5 0).toNat ≠ payloadLength then .lengthMismatch
  else if (r.getD (6 + payloadLength) 0, r.getD (7 + payloadLength) 0) ≠
      checksum ((r.drop 2).take (4 + payloadLength)) then .checksumMismatch
  else .success

/-- The ReceiveSession a Decode of `r` leaves (R133, R206): RX_COUNT is what was read, the pair is the recomputed one
when step (g) was reached and zero otherwise. -/
def decodeSession (cls id : Byte) (payloadLength : Nat) (r : Bytes) : ReceiveSession :=
  let reached := decodeOutcome cls id payloadLength r = .success ∨
    decodeOutcome cls id payloadLength r = .checksumMismatch
  let pair := if reached then checksum ((r.drop 2).take (4 + payloadLength)) else (0, 0)
  { count := r.length, ckA := pair.1, ckB := pair.2 }

/-- What the one read of a Decode returns (R67, R133). -/
def responseBytes (e : Env) (s : State) (payloadLength : Nat) : Bytes :=
  (tReadExact e (8 + payloadLength) s.cfg.readTimeoutMs).1

/-- The environment after that read. -/
def responseEnv (e : Env) (s : State) (payloadLength : Nat) : Env :=
  (tReadExact e (8 + payloadLength) s.cfg.readTimeoutMs).2

/-- `FB` holds `r` from index 0 and is unchanged above. -/
def holdsFrom (old new : Memory) (i : Nat) (r : Bytes) : Prop :=
  (∀ k, k < r.length → new.read (i + k) = r.getD k 0) ∧ (∀ k, (k < i ∨ i + r.length ≤ k) → new.read k = old.read k)

/-- FB after an exchange: the bytes read stand at index 0, what of the request lies above them is still there, and every
byte above both is unchanged. -/
def exchangeBuffer (old new : Memory) (request r : Bytes) : Prop :=
  ∀ k, new.read k =
    if k < r.length then r.getD k 0 else if k < request.length then request.getD k 0 else old.read k

/-- Everything the host or a later command can see in `s` is the same in `t`: the two states differ at most in leftovers,
that is the ReceiveSession, LB at or above LB_CURSOR, CB at or above CB_LEN, and FB except for the frame an ENCODE has
just delivered (R26, R27, R28, R30, R176). -/
structure SameButLeftovers (s t : State) : Prop where
  rest : t = { s with fb := t.fb, session := t.session, lb := t.lb, cb := t.cb }
  line : ∀ k, k < s.lbCursor → t.lb.read k = s.lb.read k
  completed : ∀ k, k < s.cbLen → t.cb.read k = s.cb.read k
  frame : s.frameReady = true → ∀ k, k < s.resLen → t.fb.read k = s.fb.read k

/-- The byte `b` with bit `j` flipped. -/
def flipBit (b : Byte) (j : Nat) : Byte := b ^^^ ((1 : Byte) <<< j)

/-- The status R139 gives to a frame with one flipped bit, by the offset of the bit. -/
def flippedOutcome (offset : Nat) : Status :=
  if offset < 2 then .syncMismatch
  else if offset = 2 then .classMismatch
  else if offset = 3 then .idMismatch
  else if offset < 6 then .lengthMismatch
  else .checksumMismatch

/-- The ten commands (R102). -/
def isCommand : Instr → Bool
  | .cksum => true
  | .encode => true
  | .decode => true
  | .reqresp => true
  | .getfix => true
  | .setfmt => true
  | .applyrst => true
  | .poll => true
  | .rdsent => true
  | .lcreset => true
  | .illegal _ => false
  | .ubxFrame _ _ _ _ _ => false
  | .navPollFrame => false
  | .navResponseFrame _ _ _ => false
  | .cfgQueryFrame _ _ _ _ => false
  | .cfgWriteFrame _ _ _ _ _ => false
  | .rstFrame _ _ _ _ _ _ => false
  | .sentence _ => false

/-- The statuses each row can end with: R201's column "commands", Success, and the refusals (R191 to R193). A wire row
writes no status. -/
def statusesOf : Instr → List Status
  | .cksum => [.success]
  | .encode => [.success, .encodeOverflow]
  | .decode =>
    [.success, .shortRead, .syncMismatch, .classMismatch, .idMismatch, .lengthMismatch, .checksumMismatch, .wrongMode,
      .badOperand]
  | .reqresp =>
    [.success, .shortRead, .syncMismatch, .classMismatch, .idMismatch, .lengthMismatch, .checksumMismatch,
      .encodeOverflow, .transmitFailed, .wrongMode, .badOperand]
  | .getfix =>
    [.success, .shortRead, .syncMismatch, .classMismatch, .idMismatch, .lengthMismatch, .checksumMismatch,
      .transmitFailed, .wrongMode]
  | .setfmt =>
    [.success, .shortRead, .syncMismatch, .classMismatch, .idMismatch, .lengthMismatch, .checksumMismatch,
      .transmitFailed, .wrongMode, .badOperand]
  | .applyrst => [.success, .transmitFailed, .wrongMode]
  | .poll => [.success, .capacityExceeded, .wrongMode]
  | .rdsent => [.success, .wrongMode]
  | .lcreset => [.success, .wrongMode]
  | .illegal _ => [.illegalOp]
  | .ubxFrame _ _ _ _ _ => []
  | .navPollFrame => []
  | .navResponseFrame _ _ _ => []
  | .cfgQueryFrame _ _ _ _ => []
  | .cfgWriteFrame _ _ _ _ _ => []
  | .rstFrame _ _ _ _ _ _ => []
  | .sentence _ => []

/-- The status R205 gives REQRESP: the first failure in the order the command executes. -/
def reqrespStatus (s : State) : Status :=
  let request := frameBytes s.opnd.argClass s.opnd.argId (spaceBytes s.pin 0 s.opnd.argLen.toNat)
  let sent := tWrite s.env request
  if s.mode ≠ .framed then .wrongMode
  else if s.cfg.maxFrame < 8 + s.opnd.expLen.toNat then .badOperand
  else if s.cfg.maxFrame < 8 + s.opnd.argLen.toNat then .encodeOverflow
  else if sent.1 ≠ request.length then .transmitFailed
  else decodeOutcome s.opnd.expClass s.opnd.expId s.opnd.expLen.toNat (responseBytes sent.2 s s.opnd.expLen.toNat)

/-- The status R205 gives GETFIX. -/
def getfixStatus (s : State) : Status :=
  let sent := tWrite s.env [0xB5, 0x62, 0x01, 0x02, 0x00, 0x00, 0x03, 0x0A]
  if s.mode ≠ .framed then .wrongMode
  else if sent.1 ≠ 8 then .transmitFailed
  else decodeOutcome 0x01 0x02 28 (responseBytes sent.2 s 28)

/-- The frame SETFMT writes back: the 20 payload bytes of the response `r` with one bit of byte 14 changed (R173). -/
def setfmtWriteFrame (s : State) (r : Bytes) : Bytes :=
  let payload := (r.drop 6).take 20
  let byte := payload.getD 14 0
  let bit := (1 : Byte) <<< s.opnd.argFmt.toNat
  frameBytes s.cfg.cfgClass s.cfg.cfgId
    (payload.set 14 (if s.opnd.argOn then byte ||| bit else byte &&& (0xFF ^^^ bit)))

/-- The status R205 gives SETFMT: a TransmitFailed of the second frame comes after all Decode checks. -/
def setfmtStatus (s : State) : Status :=
  let query := frameBytes s.cfg.cfgClass s.cfg.cfgId []
  let sent := tWrite s.env query
  let r := responseBytes sent.2 s 20
  let outcome := decodeOutcome s.cfg.cfgClass s.cfg.cfgId 20 r
  let back := tWrite (responseEnv sent.2 s 20) (setfmtWriteFrame s r)
  if s.mode ≠ .framed then .wrongMode
  else if 7 < s.opnd.argFmt.toNat then .badOperand
  else if sent.1 ≠ 8 then .transmitFailed
  else if outcome ≠ .success then outcome
  else if back.1 ≠ 28 then .transmitFailed
  else .success

end Sys2Proof.Machine
end

