-- ==== Sys2Proof/Certificates/Slice0/Obligations.lean ====
section
/-! DEFINITION. The statements for the provers. A record equality `t = { s with … }` is a frame: every field it does not
name is unchanged; where it names a byte space, the bytes stored and the bytes untouched are stated beside it. -/

open Sys2Proof Sys2Proof.Machine

/-! ## The Checksum Engine (40_checksum.md) -/

/-- R123, an inference of the spec from R120: the pair of a sequence with one byte appended, from the pair of the sequence; the empty sequence has (0, 0)
(R120). -/
def Obligations.ChecksumIsIncremental : Prop :=
  checksum [] = (0, 0) ∧
    ∀ (s : Bytes) (x : Byte),
      checksum (s ++ [x]) = ((checksum s).1 + x, (checksum s).2 + (checksum s).1 + x)

/-- R124, an inference of the spec from R120: the closed form, and its consequences (a) to (d). -/
def Obligations.ChecksumClosedForm : Prop :=
  (∀ s : Bytes,
    (checksum s).1.toNat = (s.map (fun b => b.toNat)).sum % 256 ∧ (checksum s).2.toNat = weightedSum s % 256) ∧
  (∀ (s : Bytes) (k : Nat) (x : Byte), k < s.length →
    (checksum (s.set k x)).1 = (checksum s).1 + (x - s.getD k 0) ∧
      (x ≠ s.getD k 0 → (checksum (s.set k x)).1 ≠ (checksum s).1)) ∧
  (∀ (s : Bytes) (n : Nat),
    (checksum (s ++ List.replicate n 0)).1 = (checksum s).1 ∧
      (checksum (s ++ List.replicate n 0)).2 = (checksum s).2 + BitVec.ofNat 8 n * (checksum s).1) ∧
  (∀ x : Byte, checksum (List.replicate 256 x) = (0, 128 * x)) ∧
  (∃ s s' : Bytes, s ≠ s' ∧ checksum s = checksum s')

/-- R121: CKSUM completes in both modes; RES_CKA and RES_CKB are the pair over PIN[0 .. ARG_LEN-1]; nothing else but
STATUS changes. -/
def Obligations.CksumWritesThePair : Prop :=
  ∀ s : State,
    exec .cksum s = .next
      { s with
        resCkA := (checksum (spaceBytes s.pin 0 s.opnd.argLen.toNat)).1
        resCkB := (checksum (spaceBytes s.pin 0 s.opnd.argLen.toNat)).2
        status := .success }

/-! ## The Frame Codec (41_frame_codec.md) -/

/-- R131 with R130: ENCODE in both modes. When the frame fits, FB holds it offset by offset (R90, R93), RES_LEN is its
length, every byte of FB above it is unchanged, and the host reads it from FB (R27); when it does not, only STATUS
changes. `frameReady` is the model's own bit and is left open. -/
def Obligations.EncodeBuildsTheFrame : Prop :=
  ∀ s : State,
    (8 + s.opnd.argLen.toNat ≤ s.cfg.maxFrame →
      ∃ t, exec .encode s = .next t ∧
        t = { s with
          fb := t.fb, resLen := 8 + s.opnd.argLen.toNat, status := .success, frameReady := t.frameReady } ∧
        t.fb.read 0 = 0xB5 ∧ t.fb.read 1 = 0x62 ∧ t.fb.read 2 = s.opnd.argClass ∧ t.fb.read 3 = s.opnd.argId ∧
        (t.fb.read 4).toNat = s.opnd.argLen.toNat % 256 ∧ (t.fb.read 5).toNat = s.opnd.argLen.toNat / 256 ∧
        (∀ k, k < s.opnd.argLen.toNat → t.fb.read (6 + k) = s.pin.read k) ∧
        (t.fb.read (6 + s.opnd.argLen.toNat), t.fb.read (7 + s.opnd.argLen.toNat)) =
          checksum (spaceBytes t.fb 2 (4 + s.opnd.argLen.toNat)) ∧
        (∀ k, 8 + s.opnd.argLen.toNat ≤ k → t.fb.read k = s.fb.read k) ∧
        (∀ k, k < 8 + s.opnd.argLen.toNat → t.portValue (.fb k) = (t.fb.read k).toNat)) ∧
    (s.cfg.maxFrame < 8 + s.opnd.argLen.toNat → exec .encode s = .next { s with status := .encodeOverflow })

/-- R141, an inference of the spec from R133 (with R135): for an accepted DECODE the status is the first row of the table that applies to the bytes the
one read returned, and the payload is copied on Success only. -/
def Obligations.DecodeFollowsOutcomeTable : Prop :=
  ∀ s : State, s.mode = .framed → 8 + s.opnd.expLen.toNat ≤ s.cfg.maxFrame →
    ∃ t, exec .decode s = .next t ∧
      t.status = decodeOutcome s.opnd.expClass s.opnd.expId s.opnd.expLen.toNat
        (responseBytes s.env s s.opnd.expLen.toNat) ∧
      (t.status = .success → ∀ k, k < s.opnd.expLen.toNat →
        t.pout.read k = (responseBytes s.env s s.opnd.expLen.toNat).getD (6 + k) 0) ∧
      (t.status ≠ .success → t.pout = s.pout)

/-- R134 with R76: a DECODE in FREERUN or one whose expected frame does not fit FB is refused; an accepted one whose read returned a valid
frame ends in Success with RES_LEN = EXP_LEN and the payload in POUT[0 .. EXP_LEN-1]. No byte of POUT at or above EXP_LEN
is touched, FB holds the bytes read, and nothing else but the ReceiveSession and the environment changes. On any other
outcome POUT and RES_LEN are unchanged as well. -/
def Obligations.DecodeDeliversOnlyOnSuccess : Prop :=
  (∀ s : State, s.mode = .freerun → exec .decode s = .next { s with status := .wrongMode }) ∧
  ∀ s : State, s.mode = .framed →
    (s.cfg.maxFrame < 8 + s.opnd.expLen.toNat → exec .decode s = .next { s with status := .badOperand }) ∧
    (8 + s.opnd.expLen.toNat ≤ s.cfg.maxFrame →
      ∃ t, exec .decode s = .next t ∧
        holdsFrom s.fb t.fb 0 (responseBytes s.env s s.opnd.expLen.toNat) ∧
        (decodeOutcome s.opnd.expClass s.opnd.expId s.opnd.expLen.toNat
            (responseBytes s.env s s.opnd.expLen.toNat) = .success →
          t = { s with
            pout := t.pout, resLen := s.opnd.expLen.toNat, status := .success, fb := t.fb
            session := decodeSession s.opnd.expClass s.opnd.expId s.opnd.expLen.toNat
              (responseBytes s.env s s.opnd.expLen.toNat)
            env := responseEnv s.env s s.opnd.expLen.toNat } ∧
          (∀ k, k < s.opnd.expLen.toNat →
            t.pout.read k = (responseBytes s.env s s.opnd.expLen.toNat).getD (6 + k) 0) ∧
          (∀ k, s.opnd.expLen.toNat ≤ k → t.pout.read k = s.pout.read k)) ∧
        (decodeOutcome s.opnd.expClass s.opnd.expId s.opnd.expLen.toNat
            (responseBytes s.env s s.opnd.expLen.toNat) ≠ .success →
          t = { s with
            status := decodeOutcome s.opnd.expClass s.opnd.expId s.opnd.expLen.toNat
              (responseBytes s.env s s.opnd.expLen.toNat)
            fb := t.fb
            session := decodeSession s.opnd.expClass s.opnd.expId s.opnd.expLen.toNat
              (responseBytes s.env s s.opnd.expLen.toNat)
            env := responseEnv s.env s s.opnd.expLen.toNat }))

/-- R136, an inference of the spec from R133 and R67: a Decode makes one read of `8 + L` bytes and no other transport call; the bytes it returned are gone from RXQ
whatever the outcome, all `8 + L` of them unless the status is ShortRead, and everything that had arrived when it is.
What the peer appends after the call stands behind (R69). -/
def Obligations.DecodeConsumesWhatItRead : Prop :=
  ∀ s t : State, s.mode = .framed → 8 + s.opnd.expLen.toNat ≤ s.cfg.maxFrame → exec .decode s = .next t →
    t.env.tx = s.env.tx ∧
    (8 + s.opnd.expLen.toNat ≤ s.env.rxq.length →
      t.status ≠ .shortRead ∧ t.env.rxq = s.env.rxq.drop (8 + s.opnd.expLen.toNat) ++ s.env.draw.after) ∧
    (s.env.rxq.length < 8 + s.opnd.expLen.toNat → t.status ≠ .shortRead →
      t.env.rxq = (s.env.rxq ++ s.env.draw.waits).drop (8 + s.opnd.expLen.toNat) ++ s.env.draw.after) ∧
    (t.status = .shortRead →
      (s.env.rxq ++ s.env.draw.waits).length < 8 + s.opnd.expLen.toNat ∧ t.env.rxq = s.env.draw.after)

/-- R138, stated through the two commands: the bytes an ENCODE left in FB, handed to a DECODE of any other instance or
moment with matching expectations, decode to the original payload, and exactly those bytes are taken. -/
def Obligations.DecodeOfEncodeIsTheMessage : Prop :=
  ∀ (s t u : State) (tail : Bytes),
    exec .encode s = .next t → t.status = .success →
    u.mode = .framed → 8 + u.opnd.expLen.toNat ≤ u.cfg.maxFrame →
    u.opnd.expClass = s.opnd.argClass → u.opnd.expId = s.opnd.argId → u.opnd.expLen = s.opnd.argLen →
    u.env.rxq = spaceBytes t.fb 0 t.resLen ++ tail →
    ∃ v, exec .decode u = .next v ∧ v.status = .success ∧ v.resLen = s.opnd.argLen.toNat ∧
      (∀ k, k < s.opnd.argLen.toNat → v.pout.read k = s.pin.read k) ∧
      v.env.rxq = tail ++ u.env.draw.after

/-- R139, an inference of the spec from R133 and R124: one flipped bit anywhere in a valid frame makes the Decode of it fail, with the status the offset gives, and
nothing is delivered. -/
def Obligations.OneFlippedBitIsDetected : Prop :=
  ∀ (s : State) (payload tail : Bytes) (offset bit : Nat),
    s.mode = .framed → 8 + s.opnd.expLen.toNat ≤ s.cfg.maxFrame → payload.length = s.opnd.expLen.toNat →
    offset < 8 + payload.length → bit < 8 →
    s.env.rxq =
      (frameBytes s.opnd.expClass s.opnd.expId payload).set offset
        (flipBit ((frameBytes s.opnd.expClass s.opnd.expId payload).getD offset 0) bit) ++ tail →
    ∃ t, exec .decode s = .next t ∧ t.status = flippedOutcome offset ∧ t.pout = s.pout ∧ t.resLen = s.resLen

/-- R137: right sync bytes, class and id with a wrong declared length is LengthMismatch, whatever the trailer. -/
def Obligations.LengthIsCheckedBeforeChecksum : Prop :=
  ∀ (s : State) (r tail : Bytes),
    s.mode = .framed → 8 + s.opnd.expLen.toNat ≤ s.cfg.maxFrame → r.length = 8 + s.opnd.expLen.toNat →
    s.env.rxq = r ++ tail →
    r.getD 0 0 = 0xB5 → r.getD 1 0 = 0x62 → r.getD 2 0 = s.opnd.expClass → r.getD 3 0 = s.opnd.expId →
    (r.getD 4 0).toNat + 256 * (r.getD 5 0).toNat ≠ s.opnd.expLen.toNat →
    ∃ t, exec .decode s = .next t ∧ t.status = .lengthMismatch

/-! ## The Protocol Client (43_protocol_client.md) -/

/-- R205 for REQRESP: the status is the first failure in the fixed order, in every state. -/
def Obligations.ReqrespReportsFirstFailure : Prop :=
  ∀ s : State, ∃ t, exec .reqresp s = .next t ∧ t.status = reqrespStatus s

/-- R170, every path. BadOperand before anything is sent; EncodeOverflow with nothing sent and nothing read; TransmitFailed
with the accepted part of the request sent and nothing read; a Decode failure with the request sent, the bytes read gone,
and POUT and RES_LEN unchanged. When the request is sent whole and the response is valid, REQRESP completes with the
payload in POUT[0 .. EXP_LEN-1] and RES_LEN = EXP_LEN, and no byte of POUT above is touched. -/
def Obligations.ReqrespFollowsItsRule : Prop :=
  ∀ (s : State) (request r : Bytes) (sent : Env),
    s.mode = .framed →
    request = frameBytes s.opnd.argClass s.opnd.argId (spaceBytes s.pin 0 s.opnd.argLen.toNat) →
    sent = (tWrite s.env request).2 → r = responseBytes sent s s.opnd.expLen.toNat →
    (s.cfg.maxFrame < 8 + s.opnd.expLen.toNat → exec .reqresp s = .next { s with status := .badOperand }) ∧
    (8 + s.opnd.expLen.toNat ≤ s.cfg.maxFrame → s.cfg.maxFrame < 8 + s.opnd.argLen.toNat →
      exec .reqresp s = .next { s with status := .encodeOverflow }) ∧
    (8 + s.opnd.expLen.toNat ≤ s.cfg.maxFrame → 8 + s.opnd.argLen.toNat ≤ s.cfg.maxFrame →
      s.env.draw.accepts < request.length →
      ∃ t, exec .reqresp s = .next t ∧
        t = { s with status := .transmitFailed, fb := t.fb, env := t.env } ∧
        holdsFrom s.fb t.fb 0 request ∧
        t.env.tx = s.env.tx ++ request.take s.env.draw.accepts ∧ t.env.rxq = s.env.rxq ++ s.env.draw.after) ∧
    (8 + s.opnd.expLen.toNat ≤ s.cfg.maxFrame → 8 + s.opnd.argLen.toNat ≤ s.cfg.maxFrame →
      request.length ≤ s.env.draw.accepts →
      decodeOutcome s.opnd.expClass s.opnd.expId s.opnd.expLen.toNat r ≠ .success →
      ∃ t, exec .reqresp s = .next t ∧
        t = { s with
          status := decodeOutcome s.opnd.expClass s.opnd.expId s.opnd.expLen.toNat r, fb := t.fb
          session := decodeSession s.opnd.expClass s.opnd.expId s.opnd.expLen.toNat r
          env := responseEnv sent s s.opnd.expLen.toNat } ∧
        exchangeBuffer s.fb t.fb request r ∧ t.env.tx = s.env.tx ++ request) ∧
    (8 + s.opnd.expLen.toNat ≤ s.cfg.maxFrame → 8 + s.opnd.argLen.toNat ≤ s.cfg.maxFrame →
      request.length ≤ s.env.draw.accepts →
      decodeOutcome s.opnd.expClass s.opnd.expId s.opnd.expLen.toNat r = .success →
      ∃ t, exec .reqresp s = .next t ∧
        t = { s with
          pout := t.pout, resLen := s.opnd.expLen.toNat, status := .success, fb := t.fb
          session := decodeSession s.opnd.expClass s.opnd.expId s.opnd.expLen.toNat r
          env := responseEnv sent s s.opnd.expLen.toNat } ∧
        exchangeBuffer s.fb t.fb request r ∧ t.env.tx = s.env.tx ++ request ∧
        (∀ k, k < s.opnd.expLen.toNat → t.pout.read k = r.getD (6 + k) 0) ∧
        (∀ k, s.opnd.expLen.toNat ≤ k → t.pout.read k = s.pout.read k))

/-- R171: the request is always the eight bytes B5 62 01 02 00 00 03 0A. When they are all accepted and the response is
valid, GETFIX completes with the seven fields read little-endian from payload offsets 0, 4, ..., 24, four of them as two's
complement (R94, R97); on any failure FIX is unchanged. POUT and RES_LEN are not written. -/
def Obligations.GetfixFollowsItsRule : Prop :=
  ∀ (s : State) (request r : Bytes) (sent : Env),
    s.mode = .framed → request = [0xB5, 0x62, 0x01, 0x02, 0x00, 0x00, 0x03, 0x0A] →
    sent = (tWrite s.env request).2 → r = responseBytes sent s 28 →
    (8 ≤ s.env.draw.accepts → decodeOutcome 0x01 0x02 28 r = .success →
      ∃ t, exec .getfix s = .next t ∧
        t = { s with
          fix := t.fix, status := .success, fb := t.fb, session := decodeSession 0x01 0x02 28 r
          env := responseEnv sent s 28 } ∧
        t.env.tx = s.env.tx ++ request ∧
        exchangeBuffer s.fb t.fb request r ∧
        (∀ field, ∀ o,
          (field, o) ∈
            [(t.fix.timeOfWeek, 0), (t.fix.longitude, 4), (t.fix.latitude, 8), (t.fix.heightAboveEllipsoid, 12),
              (t.fix.heightAboveMeanSeaLevel, 16), (t.fix.horizontalAccuracyEstimate, 20),
              (t.fix.verticalAccuracyEstimate, 24)] →
          BitVec.toNat field =
              (r.getD (6 + o) 0).toNat + 256 * (r.getD (7 + o) 0).toNat + 65536 * (r.getD (8 + o) 0).toNat +
                16777216 * (r.getD (9 + o) 0).toNat ∧
            asI32 field = BitVec.toInt field)) ∧
    (8 ≤ s.env.draw.accepts → decodeOutcome 0x01 0x02 28 r ≠ .success →
      ∃ t, exec .getfix s = .next t ∧
        t = { s with
          status := decodeOutcome 0x01 0x02 28 r, fb := t.fb, session := decodeSession 0x01 0x02 28 r
          env := responseEnv sent s 28 } ∧
        t.env.tx = s.env.tx ++ request ∧ exchangeBuffer s.fb t.fb request r) ∧
    (s.env.draw.accepts < 8 →
      ∃ t, exec .getfix s = .next t ∧
        t = { s with status := .transmitFailed, fb := t.fb, env := t.env } ∧
        holdsFrom s.fb t.fb 0 request ∧
        t.env.tx = s.env.tx ++ request.take s.env.draw.accepts ∧ t.env.rxq = s.env.rxq ++ s.env.draw.after)

/-- R205 for GETFIX, in every state. -/
def Obligations.GetfixReportsFirstFailure : Prop :=
  ∀ s : State, ∃ t, exec .getfix s = .next t ∧ t.status = getfixStatus s

/-- R205 for SETFMT, in every state. -/
def Obligations.SetfmtReportsFirstFailure : Prop :=
  ∀ s : State, ∃ t, exec .setfmt s = .next t ∧ t.status = setfmtStatus s

/-- R173: set when on, cleared when off, the seven other bits of byte 14 and the nineteen other bytes unchanged, and the
20-byte length kept. -/
def Obligations.SetfmtChangesOneBit : Prop :=
  ∀ (p : Bytes) (k : Nat) (on : Bool), p.length = 20 → k ≤ 7 →
    (setFormat p k on).length = 20 ∧
    (∀ i, i ≠ 14 → (setFormat p k on).getD i 0 = p.getD i 0) ∧
    (∀ j, j < 8 → ((setFormat p k on).getD 14 0).getLsbD j = if j = k then on else (p.getD 14 0).getLsbD j)

/-- R173, every path. BadOperand with nothing sent; TransmitFailed of the query with its accepted part sent and nothing
read; a Decode failure, after which nothing further is sent (R242). After a valid response the TX stream gains the query
and the response's payload with bit ARG_FMT of byte 14 set or cleared, under a fresh checksum, or what the transport
accepts of that frame. POUT, RES_LEN and FIX are not written; no reply to the second frame is read (R177). -/
def Obligations.SetfmtFollowsItsRule : Prop :=
  ∀ (s : State) (query r : Bytes) (sent read : Env),
    s.mode = .framed → query = frameBytes s.cfg.cfgClass s.cfg.cfgId [] → sent = (tWrite s.env query).2 →
    r = responseBytes sent s 20 → read = responseEnv sent s 20 →
    (7 < s.opnd.argFmt.toNat → exec .setfmt s = .next { s with status := .badOperand }) ∧
    (s.opnd.argFmt.toNat ≤ 7 → s.env.draw.accepts < 8 →
      ∃ t, exec .setfmt s = .next t ∧
        t = { s with status := .transmitFailed, fb := t.fb, env := t.env } ∧
        holdsFrom s.fb t.fb 0 query ∧
        t.env.tx = s.env.tx ++ query.take s.env.draw.accepts ∧ t.env.rxq = s.env.rxq ++ s.env.draw.after) ∧
    (s.opnd.argFmt.toNat ≤ 7 → 8 ≤ s.env.draw.accepts →
      decodeOutcome s.cfg.cfgClass s.cfg.cfgId 20 r ≠ .success →
      ∃ t, exec .setfmt s = .next t ∧
        t = { s with
          status := decodeOutcome s.cfg.cfgClass s.cfg.cfgId 20 r, fb := t.fb
          session := decodeSession s.cfg.cfgClass s.cfg.cfgId 20 r, env := read } ∧
        t.env.tx = s.env.tx ++ query ∧ exchangeBuffer s.fb t.fb query r) ∧
    (s.opnd.argFmt.toNat ≤ 7 → 8 ≤ s.env.draw.accepts →
      decodeOutcome s.cfg.cfgClass s.cfg.cfgId 20 r = .success →
      ∃ t, exec .setfmt s = .next t ∧
        t = { s with
          status := if 28 ≤ read.draw.accepts then .success else .transmitFailed, fb := t.fb
          session := decodeSession s.cfg.cfgClass s.cfg.cfgId 20 r, env := t.env } ∧
        (setfmtWriteFrame s r).length = 28 ∧
        holdsFrom s.fb t.fb 0 (setfmtWriteFrame s r) ∧
        t.env.tx = s.env.tx ++ query ++ (setfmtWriteFrame s r).take read.draw.accepts ∧
        t.env.rxq = read.rxq ++ read.draw.after)

/-- R174: the ten bytes of the reset frame; Success when all are accepted, TransmitFailed when fewer are, the accepted
ones sent either way (R132); nothing is read and no state but FB and STATUS changes. -/
def Obligations.ApplyrstSendsTenBytes : Prop :=
  ∀ (s : State) (frame : Bytes), s.mode = .framed →
    frame = frameBytes s.cfg.rstClass s.cfg.rstId [s.cfg.rstByte0, s.opnd.argRst] →
    frame.length = 10 ∧
    ∃ t, exec .applyrst s = .next t ∧
      t = { s with
        status := if 10 ≤ s.env.draw.accepts then .success else .transmitFailed, fb := t.fb, env := t.env } ∧
      holdsFrom s.fb t.fb 0 frame ∧
      t.env.tx = s.env.tx ++ frame.take s.env.draw.accepts ∧ t.env.rxq = s.env.rxq ++ s.env.draw.after

/-- R176, an inference of the spec (with R22): whatever a failed DECODE or exchange did, POUT, RES_LEN, FIX and the line collector are unchanged. -/
def Obligations.FailedExchangeLeavesResults : Prop :=
  ∀ (i : Instr) (s t : State), i ∈ [Instr.decode, .reqresp, .getfix, .setfmt, .applyrst] →
    exec i s = .next t → t.status ≠ .success →
    t = { s with status := t.status, fb := t.fb, session := t.session, env := t.env }

/-! ## The Free-Running Line Collector (42_line_collector.md) -/

/-- R150: one poll tick, in FREERUN only, every branch, with everything it leaves alone. `n` is what TBuffered returns. -/
def Obligations.PollFollowsItsRule : Prop :=
  (∀ s : State, s.mode = .framed → exec .poll s = .next { s with status := .wrongMode }) ∧
  ∀ (s : State) (n idle : Nat), s.mode = .freerun → n = s.env.rxq.length → idle = min (s.idleCount + 1) 2 →
    ∃ t, exec .poll s = .next t ∧ t.env.tx = s.env.tx ∧
      (n = 0 → ¬(2 ≤ idle ∧ 0 < s.lbCursor) →
        t = { s with idleCount := idle, event := .none, status := .success, env := t.env } ∧
          t.env.rxq = s.env.draw.after) ∧
      (n = 0 → 2 ≤ idle ∧ 0 < s.lbCursor → s.lb.read 0 = 0x24 ∧ s.lb.read (s.lbCursor - 1) = 0x0A →
        t = { s with
          cb := t.cb, cbLen := s.lbCursor, event := .published, lbCursor := 0, idleCount := 0, status := .success
          env := t.env } ∧
          holdsFrom s.cb t.cb 0 (spaceBytes s.lb 0 s.lbCursor) ∧ t.env.rxq = s.env.draw.after) ∧
      (n = 0 → 2 ≤ idle ∧ 0 < s.lbCursor → ¬(s.lb.read 0 = 0x24 ∧ s.lb.read (s.lbCursor - 1) = 0x0A) →
        t = { s with event := .dropped, lbCursor := 0, idleCount := 0, status := .success, env := t.env } ∧
          t.env.rxq = s.env.draw.after) ∧
      (0 < n → s.lbCursor + n ≤ s.cfg.lineCapacity →
        t = { s with
          idleCount := 0, lb := t.lb, lbCursor := s.lbCursor + n, event := .accumulated, status := .success
          env := t.env } ∧
          holdsFrom s.lb t.lb s.lbCursor s.env.rxq ∧
          t.env.rxq = s.env.draw.after ++ s.env.advance.draw.after) ∧
      (0 < n → s.cfg.lineCapacity < s.lbCursor + n →
        t = { s with idleCount := 0, status := .capacityExceeded, env := t.env } ∧
          t.env.rxq = s.env.rxq ++ s.env.draw.after)

/-- R159, an inference of the spec from R150: the eight rows of the table, for every FREERUN state; `n` is what TBuffered returns. -/
def Obligations.PollFollowsTransitionTable : Prop :=
  ∀ s : State, s.mode = .freerun →
    ∃ t, exec .poll s = .next t ∧
      (s.lbCursor = 0 → s.env.rxq.length = 0 →
        t.lbCursor = 0 ∧ t.idleCount = min (s.idleCount + 1) 2 ∧ t.event = .none ∧ t.status = .success) ∧
      (s.lbCursor = 0 → 0 < s.env.rxq.length → s.env.rxq.length ≤ s.cfg.lineCapacity →
        t.lbCursor = s.env.rxq.length ∧ t.idleCount = 0 ∧ t.event = .accumulated ∧ t.status = .success) ∧
      (s.lbCursor = 0 → 0 < s.env.rxq.length → s.cfg.lineCapacity < s.env.rxq.length →
        t.lbCursor = 0 ∧ t.idleCount = 0 ∧ t.event = s.event ∧ t.status = .capacityExceeded) ∧
      (0 < s.lbCursor → s.env.rxq.length = 0 → s.idleCount = 0 →
        t.lbCursor = s.lbCursor ∧ t.idleCount = 1 ∧ t.event = .none ∧ t.status = .success) ∧
      (0 < s.lbCursor → s.env.rxq.length = 0 → 1 ≤ s.idleCount →
        s.lb.read 0 = 0x24 ∧ s.lb.read (s.lbCursor - 1) = 0x0A →
        t.lbCursor = 0 ∧ t.idleCount = 0 ∧ t.event = .published ∧ t.status = .success) ∧
      (0 < s.lbCursor → s.env.rxq.length = 0 → 1 ≤ s.idleCount →
        ¬(s.lb.read 0 = 0x24 ∧ s.lb.read (s.lbCursor - 1) = 0x0A) →
        t.lbCursor = 0 ∧ t.idleCount = 0 ∧ t.event = .dropped ∧ t.status = .success) ∧
      (0 < s.lbCursor → 0 < s.env.rxq.length → s.lbCursor + s.env.rxq.length ≤ s.cfg.lineCapacity →
        t.lbCursor = s.lbCursor + s.env.rxq.length ∧ t.idleCount = 0 ∧ t.event = .accumulated ∧
          t.status = .success) ∧
      (0 < s.lbCursor → 0 < s.env.rxq.length → s.cfg.lineCapacity < s.lbCursor + s.env.rxq.length →
        t.lbCursor = s.lbCursor ∧ t.idleCount = 0 ∧ t.event = s.event ∧ t.status = .capacityExceeded)

/-- R77 (with R150): a poll that finds bytes that fit stores exactly them at LB[LB_CURSOR ..], takes exactly them from
RXQ, and changes nothing else. -/
def Obligations.PollAccumulatesAtTheCursor : Prop :=
  ∀ s : State, s.mode = .freerun → 0 < s.env.rxq.length → s.lbCursor + s.env.rxq.length ≤ s.cfg.lineCapacity →
    ∃ t, exec .poll s = .next t ∧
      t = { s with
        lb := t.lb, lbCursor := s.lbCursor + s.env.rxq.length, idleCount := 0, event := .accumulated
        status := .success, env := t.env } ∧
      holdsFrom s.lb t.lb s.lbCursor s.env.rxq ∧
      t.env.tx = s.env.tx ∧ t.env.rxq = s.env.draw.after ++ s.env.advance.draw.after

/-- R153: at the second consecutive empty poll a run that begins with `$` and ends with newline goes whole to CB, an unread
sentence is overwritten, a published sentence has at least two bytes, and nothing but the collector, RES_EVENT and STATUS
changes. -/
def Obligations.PollPublishesTheWholeRun : Prop :=
  ∀ s : State, s.mode = .freerun → s.env.rxq = [] → 0 < s.lbCursor → 1 ≤ s.idleCount →
    s.lb.read 0 = 0x24 → s.lb.read (s.lbCursor - 1) = 0x0A →
    ∃ t, exec .poll s = .next t ∧
      t = { s with
        cb := t.cb, cbLen := s.lbCursor, lbCursor := 0, idleCount := 0, event := .published, status := .success
        env := t.env } ∧
      holdsFrom s.cb t.cb 0 (spaceBytes s.lb 0 s.lbCursor) ∧ 2 ≤ t.cbLen ∧
      t.env.tx = s.env.tx ∧ t.env.rxq = s.env.draw.after

/-- R154: when the delimiters do not match, the run is discarded, CB and CB_LEN are untouched and STATUS is Success. -/
def Obligations.PollDropsSilently : Prop :=
  ∀ s : State, s.mode = .freerun → s.env.rxq = [] → 0 < s.lbCursor → 1 ≤ s.idleCount →
    ¬(s.lb.read 0 = 0x24 ∧ s.lb.read (s.lbCursor - 1) = 0x0A) →
    ∃ t, exec .poll s = .next t ∧
      t = { s with lbCursor := 0, idleCount := 0, event := .dropped, status := .success, env := t.env } ∧
      t.env.tx = s.env.tx ∧ t.env.rxq = s.env.draw.after

/-- R151: a poll that finds bytes zeroes the counter, also when it ends in CapacityExceeded, and so does a flush. After a
poll that left bytes in the buffer with the counter at zero, the first empty poll flushes nothing and the second one
flushes. -/
def Obligations.SecondEmptyPollFlushes : Prop :=
  (∀ s t : State, s.mode = .freerun → exec .poll s = .next t → 0 < s.env.rxq.length → t.idleCount = 0) ∧
  (∀ s t : State, s.mode = .freerun → exec .poll s = .next t → 0 < s.lbCursor → t.lbCursor = 0 → t.idleCount = 0) ∧
  (∀ t u v : State, t.mode = .freerun → 0 < t.lbCursor → t.idleCount = 0 →
    t.env.rxq = [] → exec .poll t = .next u → u.env.rxq = [] → exec .poll u = .next v →
    u.event = .none ∧ u.lbCursor = t.lbCursor ∧ u.cb = t.cb ∧ u.cbLen = t.cbLen ∧
      (v.event = .published ∨ v.event = .dropped) ∧ v.lbCursor = 0 ∧ v.idleCount = 0)

/-- R156: CapacityExceeded reads nothing: every byte stays in RXQ, no byte of LB is written, the counter is zeroed and
nothing else but STATUS changes; the next POLL ends in CapacityExceeded again. Filling the buffer exactly is accepted. -/
def Obligations.CapacityExceededReadsNothing : Prop :=
  ∀ s : State, s.mode = .freerun → 0 < s.env.rxq.length →
    (s.cfg.lineCapacity < s.lbCursor + s.env.rxq.length →
      ∃ t u, exec .poll s = .next t ∧
        t = { s with idleCount := 0, status := .capacityExceeded, env := t.env } ∧
        t.env.tx = s.env.tx ∧ t.env.rxq = s.env.rxq ++ s.env.draw.after ∧
        exec .poll t = .next u ∧ u.status = .capacityExceeded) ∧
    (s.lbCursor + s.env.rxq.length = s.cfg.lineCapacity →
      ∃ t, exec .poll s = .next t ∧ t.status = .success ∧ t.lbCursor = s.cfg.lineCapacity)

/-- R238, an inference of the spec from R156 and R158: after a CapacityExceeded every further POLL ends in CapacityExceeded; LCRESET helps exactly when the waiting
bytes fit the whole buffer. The commands follow each other directly: nothing takes bytes out of RXQ between them (R238's
"unless RXQ shrinks by other means"; the model offers no such move, log 19). -/
def Obligations.CapacityExceededRepeats : Prop :=
  ∀ s t : State, s.mode = .freerun → exec .poll s = .next t → t.status = .capacityExceeded →
    (∃ u, exec .poll t = .next u ∧ u.status = .capacityExceeded) ∧
    (∃ u v, exec .lcreset t = .next u ∧ exec .poll u = .next v ∧
      (v.status = .success ↔ t.env.rxq.length ≤ t.cfg.lineCapacity))

/-- R157: RDSENT, in FREERUN only, completes, delivers the pending sentence to POUT[0 .. CB_LEN-1], touches no other byte of
POUT, and clears CB_LEN; a second RDSENT returns RES_LEN = 0 and writes no byte of POUT. A sentence longer than any POUT
(R60) is the next statement's. -/
def Obligations.RdsentIsOneShot : Prop :=
  (∀ s : State, s.mode = .framed → exec .rdsent s = .next { s with status := .wrongMode }) ∧
  ∀ s : State, s.mode = .freerun →
    ∃ t, exec .rdsent s = .next t ∧
      t = { s with pout := t.pout, resLen := s.cbLen, cbLen := 0, status := .success } ∧
      (s.cbLen ≤ 65535 → holdsFrom s.pout t.pout 0 (spaceBytes s.cb 0 s.cbLen)) ∧
      exec .rdsent t = .next { t with resLen := 0 }

/-- The model's choice (log 11) where R157 would write outside the 65535 bytes R60 gives POUT, which R65 says no rule does:
with a pending sentence that long, RDSENT fills POUT with its beginning and does everything else R157 says. -/
def Obligations.RdsentStaysInsidePout : Prop :=
  ∀ s : State, s.mode = .freerun → 65535 < s.cbLen →
    ∃ t, exec .rdsent s = .next t ∧
      t = { s with pout := t.pout, resLen := s.cbLen, cbLen := 0, status := .success } ∧
      holdsFrom s.pout t.pout 0 (spaceBytes s.cb 0 65535)

/-- R158: LCRESET, in FREERUN only, completes and zeroes LB_CURSOR and IDLE_COUNT; nothing else but STATUS changes. -/
def Obligations.LcresetEmptiesTheLine : Prop :=
  (∀ s : State, s.mode = .framed → exec .lcreset s = .next { s with status := .wrongMode }) ∧
  ∀ s : State, s.mode = .freerun →
    exec .lcreset s = .next { s with lbCursor := 0, idleCount := 0, status := .success }

/-! ## Acceptance (44_system_ops.md) -/

/-- R191, R103: the host writes an OPC that names no command; the command ends with IllegalOp and nothing else changes but
OPC itself, which the host wrote. `frameReady` is the model's own bit and is left open. -/
def Obligations.IllegalOpcodeIsRefused : Prop :=
  ∀ (s : State) (opc : Byte) (rest : List Input), (opc = 0 ∨ 0x0A < opc.toNat) →
    s.host.inputs = .issue opc :: rest →
    exec (.illegal opc) s = .next { s with status := .illegalOp } ∧
    ∃ t, step s = .next t ∧
      t = { s with
        opnd := { s.opnd with opc := opc }
        status := .illegalOp
        frameReady := t.frameReady
        host := { s.host with inputs := rest } }

/-- R192: a command of the other mode is refused with WrongMode and changes nothing but STATUS, whatever its operands
(R194); every other command is not refused so. -/
def Obligations.WrongModeIsRefused : Prop :=
  ∀ (i : Instr) (s : State),
    (i ∈ [Instr.decode, .reqresp, .getfix, .setfmt, .applyrst] → s.mode = .freerun →
      exec i s = .next { s with status := .wrongMode }) ∧
    (i ∈ [Instr.poll, .rdsent, .lcreset] → s.mode = .framed → exec i s = .next { s with status := .wrongMode }) ∧
    (∀ t, isCommand i = true → exec i s = .next t → t.status = .wrongMode →
      (i ∈ [Instr.decode, .reqresp, .getfix, .setfmt, .applyrst] ∧ s.mode = .freerun) ∨
        (i ∈ [Instr.poll, .rdsent, .lcreset] ∧ s.mode = .framed))

/-- R193: DECODE and REQRESP whose expected frame does not fit FB, and SETFMT with ARG_FMT above 7, are refused with
BadOperand and change nothing but STATUS; no other operand is checked. -/
def Obligations.BadOperandIsRefused : Prop :=
  ∀ s : State, s.mode = .framed →
    (s.cfg.maxFrame < 8 + s.opnd.expLen.toNat →
      exec .decode s = .next { s with status := .badOperand } ∧
      exec .reqresp s = .next { s with status := .badOperand }) ∧
    (7 < s.opnd.argFmt.toNat → exec .setfmt s = .next { s with status := .badOperand }) ∧
    (∀ i t, isCommand i = true → exec i s = .next t → t.status = .badOperand →
      (i ∈ [Instr.decode, .reqresp] ∧ s.cfg.maxFrame < 8 + s.opnd.expLen.toNat) ∨
        (i = .setfmt ∧ 7 < s.opnd.argFmt.toNat))

/-- R201 (with R104): a command ends only with a status the table gives it. -/
def Obligations.StatusesAreThoseOfTheTable : Prop :=
  ∀ (i : Instr) (s t : State), isCommand i = true → exec i s = .next t → t.status ∈ statusesOf i

/-- R104, R105: the numeric codes. -/
def Obligations.StatusAndEventCodes : Prop :=
  [Status.success, .shortRead, .syncMismatch, .classMismatch, .idMismatch, .lengthMismatch, .checksumMismatch,
      .encodeOverflow, .capacityExceeded, .transmitFailed, .illegalOp, .wrongMode, .badOperand].map Status.code =
    [0x00, 0x01, 0x02, 0x03, 0x04, 0x05, 0x06, 0x07, 0x08, 0x09, 0x0A, 0x0B, 0x0C] ∧
  [PollEvent.none, .accumulated, .published, .dropped].map PollEvent.code = [0x00, 0x01, 0x02, 0x03] ∧
  ∀ a b : Status, a.code = b.code → a = b

/-! ## Rules about the whole machine -/

/-- R190: every step of every state ends in a next state: no command runs for ever, faults or is refused a meaning. -/
def Obligations.EveryStepCompletes : Prop := ∀ s : State, ∃ t, step s = .next t

/-- R21, R25, R33, R35: no instruction writes an operand register, MODE, PIN, a parameter or the host's side. -/
def Obligations.BlockNeverWritesOperandsOrMode : Prop :=
  ∀ (i : Instr) (s t : State), exec i s = .next t →
    t.opnd = s.opnd ∧ t.mode = s.mode ∧ t.pin = s.pin ∧ t.cfg = s.cfg ∧ t.host = s.host

/-- R22 (with R32): every command that ends writes STATUS; which instruction may write which result: RES_EVENT only POLL,
RES_LEN only ENCODE, DECODE, REQRESP and RDSENT, RES_CKA and RES_CKB only CKSUM, FIX only GETFIX; POUT only DECODE, REQRESP
and RDSENT (R60). When the status is not Success, every one of them keeps its value. -/
def Obligations.ResultRegistersHaveOwners : Prop :=
  ∀ (i : Instr) (s t : State), exec i s = .next t →
    (i ≠ .poll → t.event = s.event) ∧
    (i ∉ [Instr.encode, .decode, .reqresp, .rdsent] → t.resLen = s.resLen) ∧
    (i ≠ .cksum → t.resCkA = s.resCkA ∧ t.resCkB = s.resCkB) ∧
    (i ≠ .getfix → t.fix = s.fix) ∧
    (i ∉ [Instr.decode, .reqresp, .rdsent] → t.pout = s.pout) ∧
    (isCommand i = true → t.status ∈ statusesOf i) ∧
    (t.status ≠ .success →
      t.event = s.event ∧ t.resLen = s.resLen ∧ t.resCkA = s.resCkA ∧ t.resCkB = s.resCkB ∧ t.fix = s.fix ∧
        t.pout = s.pout)

/-- R60 (column "which commands reach it") for FB, LB, CB and the transport; R20 (column "written by") with R26 for the
ReceiveSession, LB_CURSOR, IDLE_COUNT and CB_LEN: each is written only by the commands the table names, and a command that
makes no transport call leaves RXQ, the TX stream and the draws alone. -/
def Obligations.SpacesHaveOwners : Prop :=
  ∀ (i : Instr) (s t : State), exec i s = .next t →
    (i ∉ [Instr.encode, .decode, .reqresp, .getfix, .setfmt, .applyrst] → t.fb = s.fb) ∧
    (i ∉ [Instr.decode, .reqresp, .getfix, .setfmt] → t.session = s.session) ∧
    (i ≠ .poll → t.lb = s.lb ∧ t.cb = s.cb) ∧
    (i ∉ [Instr.poll, .lcreset] → t.lbCursor = s.lbCursor ∧ t.idleCount = s.idleCount) ∧
    (i ∉ [Instr.poll, .rdsent] → t.cbLen = s.cbLen) ∧
    (i ∈ [Instr.cksum, .encode, .rdsent, .lcreset] → t.env = s.env)

/-- R71 (a) (with R66): the TX stream only grows, at its end, in every step but none shortens or rewrites it. -/
def Obligations.TxStreamOnlyGrows : Prop :=
  ∀ s t : State, step s = .next t → ∃ sent, t.env.tx = s.env.tx ++ sent

/-- R66, R67, R68: what the three transport primitives promise, for every environment. The bytes the peer appends after
each call (R69) stand at the end of RXQ. -/
def Obligations.TransportContract : Prop :=
  (∀ (e : Env) (s : Bytes),
    (tWrite e s).1 ≤ s.length ∧ (tWrite e s).2.tx = e.tx ++ s.take (tWrite e s).1 ∧
      (tWrite e s).2.rxq = e.rxq ++ e.draw.after) ∧
  (∀ (e : Env) (count timeout : Nat),
    (tReadExact e count timeout).1.length ≤ count ∧ (tReadExact e count timeout).2.tx = e.tx ∧
    (count ≤ e.rxq.length →
      (tReadExact e count timeout).1 = e.rxq.take count ∧
        (tReadExact e count timeout).2.rxq = e.rxq.drop count ++ e.draw.after) ∧
    (e.rxq.length < count →
      (tReadExact e count timeout).1 = (e.rxq ++ e.draw.waits).take count ∧
        (tReadExact e count timeout).2.rxq = (e.rxq ++ e.draw.waits).drop count ++ e.draw.after) ∧
    ((tReadExact e count timeout).1.length < count → (tReadExact e count timeout).2.rxq = e.draw.after)) ∧
  (∀ (e : Env) (timeout : Nat),
    (tBuffered e).1 = e.rxq.length ∧ (tBuffered e).2.tx = e.tx ∧ (tBuffered e).2.rxq = e.rxq ++ e.draw.after ∧
      (tReadExact (tBuffered e).2 (tBuffered e).1 timeout).1 = e.rxq ∧
      (tReadExact (tBuffered e).2 (tBuffered e).1 timeout).2.rxq = e.draw.after ++ e.advance.draw.after)

/-- R26, R27, R28, R30, R176: leftovers are never read. Two states that differ only in the ReceiveSession, in LB at or above
LB_CURSOR, in CB at or above CB_LEN, and in FB outside a frame just delivered, still differ only there after the same
step, whatever the host and the peer do: neither the host's reads nor any later command can tell them apart. -/
def Obligations.LeftoversAreNeverRead : Prop :=
  ∀ s t s' t' : State, SameButLeftovers s t → step s = .next s' → step t = .next t' → SameButLeftovers s' t'

/-! ## The wire rows and the encodings (30_encoding.md) -/

/-- R69 (with R9), as log 1 reads the wire rows of the table: each is the arrival of its bytes. It completes in every
state, in either mode; the bytes stand at the tail of RXQ and nothing else changes. -/
def Obligations.WireRowsArriveInRxq : Prop :=
  ∀ (i : Instr) (s : State), (encode i).1 = .wire →
    exec i s = .next { s with env := { s.env with rxq := s.env.rxq ++ (encode i).2 } }

/-- R69: whatever bytes the peer sends, a step appends exactly those to RXQ: a run that is a row of the table and a run
that is none have the same effect. -/
def Obligations.AnyArrivalIsAppended : Prop :=
  ∀ (s : State) (bytes : Bytes) (rest : List Input), s.host.inputs = .arrive bytes :: rest →
    step s = .next
      { s with
        env := { s.env with rxq := s.env.rxq ++ bytes }
        host := { s.host with inputs := rest } }

/-- R90 to R103, with log 12 and log 14: every well-formed instruction of every instance decodes from its own words, with
every field. What is well-formed is in part the model's choice: a wire row carries its two trailer bytes as they stand
(log 12), and where two rows describe the same bytes they are the more special row's, so a `ubxFrame` that another row
describes is not well-formed and its bytes are that row's (log 14). -/
def Obligations.DecodeInvertsEncode : Prop :=
  ∀ (cfg : Config) (i : Instr), i.wellFormed cfg = true → decode cfg (encode i).1 (encode i).2 = .ok i

/-- What the decoder reads is well-formed and encodes to exactly those words (R90 to R103). That each word has one meaning
is the model's choice (log 14), since the rows overlap: UBX_FRAME takes any class and id. The trailer bytes are read as
they stand (log 12). -/
def Obligations.EncodeInvertsDecode : Prop :=
  ∀ (cfg : Config) (port : Port) (bytes : Bytes) (i : Instr), decode cfg port bytes = .ok i →
    i.wellFormed cfg = true ∧ encode i = (port, bytes)

/-- Words written out from the encodings decode to what they stand for: opcodes (R102, R103), the position request (R96,
R171), a frame (R90), the reset frame (R99), a sentence (R100). How a table word becomes bytes is log 13, which of two
rows owns a frame log 14, and the class and id of the reset frame are those of the default instance, log 6. -/
def Obligations.WrittenOutWordsDecode : Prop :=
  decodeTableWord 8 0x01 = some .cksum ∧ decodeTableWord 8 0x04 = some .reqresp ∧
  decodeTableWord 8 0x08 = some .poll ∧ decodeTableWord 8 0x0B = some (.illegal 0x0B) ∧
  decode Config.default .wire [0xB5, 0x62, 0x01, 0x02, 0x00, 0x00, 0x03, 0x0A] = .ok .navPollFrame ∧
  decode Config.default .wire [0xB5, 0x62, 0x0A, 0x04, 0x01, 0x00, 0x5A, 0x69, 0x9F] =
    .ok (.ubxFrame 0x0A 0x04 [0x5A] 0x69 0x9F) ∧
  decode Config.default .wire [0xB5, 0x62, 0x06, 0x04, 0x02, 0x00, 0x00, 0x01, 0x0D, 0x41] =
    .ok (.rstFrame 0x06 0x04 0x00 0x01 0x0D 0x41) ∧
  decode Config.default .wire [0x24, 0x47, 0x50, 0x0A] = .ok (.sentence [0x47, 0x50])

/-- R171, R173, R174 against the rows of the table: the frames the block builds for its three operations are the rows'
frames. -/
def Obligations.BuiltFramesAreTheRows : Prop :=
  frameBytes 0x01 0x02 [] = (encode .navPollFrame).2 ∧
  ∀ (s : State) (r : Bytes), r.length = 28 →
    (∃ a b, frameBytes s.cfg.cfgClass s.cfg.cfgId [] = (encode (.cfgQueryFrame s.cfg.cfgClass s.cfg.cfgId a b)).2) ∧
    (∃ p a b, setfmtWriteFrame s r = (encode (.cfgWriteFrame s.cfg.cfgClass s.cfg.cfgId p a b)).2 ∧
      Instr.wellFormed s.cfg (.cfgWriteFrame s.cfg.cfgClass s.cfg.cfgId p a b) = true) ∧
    (∃ a b, frameBytes s.cfg.rstClass s.cfg.rstId s.resetPayload =
      (encode (.rstFrame s.cfg.rstClass s.cfg.rstId s.cfg.rstByte0 s.opnd.argRst a b)).2)

/-! ## The step and the host's port -/

/-- R101, R190: a step whose next input is the host's write of OPC runs the command OPC names, whole; around exec only OPC
is written, the input is used up, and FB is no longer a delivered frame (log 9). -/
def Obligations.StepRunsTheIssuedCommand : Prop :=
  ∀ (s : State) (opc : Byte) (rest : List Input), s.host.inputs = .issue opc :: rest →
    decode s.cfg .command [opc] = .ok (decodeCommand opc) ∧
    step s = exec (decodeCommand opc)
      { s with
        opnd := { s.opnd with opc := opc }
        frameReady := false
        host := { s.host with inputs := rest } }

/-- The model's choice (log 1): a step whose next input is a run of bytes that decodes to a row runs that row; around exec
only the input is used up. Which row the bytes are is log 14; that the peer may send them is R69. -/
def Obligations.StepRunsTheArrivedRow : Prop :=
  ∀ (s : State) (bytes : Bytes) (rest : List Input) (i : Instr), s.host.inputs = .arrive bytes :: rest →
    decode s.cfg .wire bytes = .ok i →
    step s = exec i { s with host := { s.host with inputs := rest } }

/-- R230, R231: reset between commands. MODE takes the strap, LB_CURSOR, IDLE_COUNT and CB_LEN are 0, STATUS is Success,
RES_EVENT is None; the parameters, PIN, POUT, RXQ and the TX stream are untouched. -/
def Obligations.HardwareResetValues : Prop :=
  ∀ (s : State) (strap : Mode) (rest : List Input), s.host.inputs = .reset strap :: rest →
    ∃ t, step s = .next t ∧
      t.mode = strap ∧ t.lbCursor = 0 ∧ t.idleCount = 0 ∧ t.cbLen = 0 ∧ t.status = .success ∧ t.event = .none ∧
      t.cfg = s.cfg ∧ t.pin = s.pin ∧ t.pout = s.pout ∧ t.env = s.env

/-- R36: what the spec gives of the state right after reset. -/
def Obligations.ResetStateValues : Prop :=
  State.reset.status.code = 0x00 ∧ State.reset.event.code = 0x00 ∧ State.reset.lbCursor = 0 ∧
  State.reset.idleCount = 0 ∧ State.reset.cbLen = 0 ∧ State.reset.collectorIdle = true ∧
  State.reset.sentencePending = false

/-- R230 (a reset in the middle of a command), as log 8 models it: the registers R36 names are as after reset. The
environment is as after exactly the first `calls` transport calls of the command (bytes written stay sent, bytes read are
lost): DECODE reads; REQRESP and GETFIX write, then read when the whole request was accepted; SETFMT writes, reads and
writes; APPLYRST writes; POLL asks for the count, then reads; the other commands and every refused one make no call. A call
that the command does not come to changes nothing, so from 3 calls on the environment is that of the completed command.
POUT holds the first `copied` bytes as the completed command leaves them when every call was made, and is untouched
otherwise. -/
def Obligations.AbandonedCommandKeepsTransportEffects : Prop :=
  ∀ (s t : State) (opc : Byte) (calls copied : Nat) (strap : Mode) (rest : List Input) (request query : Bytes),
    s.host.inputs = .abandon opc calls copied strap :: rest →
    exec (decodeCommand opc) (s.afterInput.startCommand opc) = .next t →
    request = frameBytes s.opnd.argClass s.opnd.argId (spaceBytes s.pin 0 s.opnd.argLen.toNat) →
    query = frameBytes s.cfg.cfgClass s.cfg.cfgId [] →
    ∃ u, step s = .next u ∧
      u.mode = strap ∧ u.status = .success ∧ u.event = .none ∧ u.lbCursor = 0 ∧ u.idleCount = 0 ∧ u.cbLen = 0 ∧
      u.pin = s.pin ∧ u.cfg = s.cfg ∧
      (calls = 0 → u.env = s.env) ∧ (3 ≤ calls → u.env = t.env) ∧
      (t.status ∈ [Status.illegalOp, .wrongMode, .badOperand, .encodeOverflow] → u.env = s.env) ∧
      (opc ∈ ([0x01, 0x02, 0x09, 0x0A] : Bytes) → u.env = s.env) ∧
      (opc = 0x03 → s.mode = .framed → 8 + s.opnd.expLen.toNat ≤ s.cfg.maxFrame → 1 ≤ calls →
        u.env = responseEnv s.env s s.opnd.expLen.toNat) ∧
      (opc = 0x04 → s.mode = .framed → 8 + s.opnd.expLen.toNat ≤ s.cfg.maxFrame →
        8 + s.opnd.argLen.toNat ≤ s.cfg.maxFrame →
        (calls = 1 → u.env = (tWrite s.env request).2) ∧ (2 ≤ calls → u.env = t.env)) ∧
      (opc = 0x05 → s.mode = .framed →
        (calls = 1 → u.env = (tWrite s.env [0xB5, 0x62, 0x01, 0x02, 0x00, 0x00, 0x03, 0x0A]).2) ∧
        (2 ≤ calls → u.env = t.env)) ∧
      (opc = 0x06 → s.mode = .framed → s.opnd.argFmt.toNat ≤ 7 →
        (calls = 1 → u.env = (tWrite s.env query).2) ∧
        (calls = 2 → u.env =
          if 8 ≤ s.env.draw.accepts then responseEnv (tWrite s.env query).2 s 20 else (tWrite s.env query).2)) ∧
      (opc = 0x07 → s.mode = .framed → 1 ≤ calls →
        u.env = (tWrite s.env (frameBytes s.cfg.rstClass s.cfg.rstId [s.cfg.rstByte0, s.opnd.argRst])).2) ∧
      (opc = 0x08 → s.mode = .freerun →
        (calls = 1 → u.env = (tBuffered s.env).2) ∧ (2 ≤ calls → u.env = t.env)) ∧
      ((opc = 0x03 ∧ 1 ≤ calls) ∨ (opc = 0x04 ∧ 2 ≤ calls) ∨ opc = 0x09 →
        ∀ k, u.pout.read k = if k < copied then t.pout.read k else s.pout.read k) ∧
      (¬((opc = 0x03 ∧ 1 ≤ calls) ∨ (opc = 0x04 ∧ 2 ≤ calls) ∨ opc = 0x09) → u.pout = s.pout)

/-- R213: an idle block waits; a step in which nobody acts changes nothing but the used-up input. -/
def Obligations.IdleStepKeepsEverything : Prop :=
  ∀ (s : State) (rest : List Input), s.host.inputs = .idle :: rest →
    step s = .next { s with host := { s.host with inputs := rest } }

/-- R195, R63: a host read answers what the register or byte named holds, STATUS and RES_EVENT as their codes (R104, R105),
each FIX register as its 32 bits (R32), and has no effect on the block, the transport or the host-owned spaces. FB is
readable as the delivered frame only (R27, log 9). -/
def Obligations.HostReadHasNoSideEffect : Prop :=
  ∀ (s : State) (p : HostPort) (rest : List Input), s.host.inputs = .read p :: rest →
    ∃ h, step s = .next { s with host := h } ∧ h.inputs = rest ∧
      (∀ v, (p, v) ∈
        [(HostPort.opc, s.opnd.opc.toNat), (.argClass, s.opnd.argClass.toNat), (.argId, s.opnd.argId.toNat),
          (.argLen, s.opnd.argLen.toNat), (.expClass, s.opnd.expClass.toNat), (.expId, s.opnd.expId.toNat),
          (.expLen, s.opnd.expLen.toNat), (.argFmt, s.opnd.argFmt.toNat), (.argOn, s.opnd.argOn.toNat),
          (.argRst, s.opnd.argRst.toNat), (.status, s.status.code.toNat), (.resEvent, s.event.code.toNat),
          (.resLen, s.resLen), (.resCkA, s.resCkA.toNat), (.resCkB, s.resCkB.toNat),
          (.fix .timeOfWeek, s.fix.timeOfWeek.toNat), (.fix .longitude, s.fix.longitude.toNat),
          (.fix .latitude, s.fix.latitude.toNat),
          (.fix .heightAboveEllipsoid, s.fix.heightAboveEllipsoid.toNat),
          (.fix .heightAboveMeanSeaLevel, s.fix.heightAboveMeanSeaLevel.toNat),
          (.fix .horizontalAccuracyEstimate, s.fix.horizontalAccuracyEstimate.toNat),
          (.fix .verticalAccuracyEstimate, s.fix.verticalAccuracyEstimate.toNat), (.cbLen, s.cbLen)] →
        h.data = v) ∧
      (∀ i, p = .pin i → h.data = (s.pin.read i.val).toNat) ∧
      (∀ i, p = .pout i → h.data = (s.pout.read i.val).toNat) ∧
      (∀ i, p = .fb i → s.frameReady = true → i < s.resLen → h.data = (s.fb.read i).toNat)

/-- R21, R33: a step whose next input is a host write is that write and uses up the input; the write changes the operand
register or the one byte it names, which then reads back, and nothing else of the block, the transport or the host-owned
spaces. -/
def Obligations.HostWriteIsReadBack : Prop :=
  (∀ (s : State) (w : HostWrite) (rest : List Input), s.host.inputs = .write w :: rest →
    step s = .next (State.hostWrite { s with host := { s.host with inputs := rest } } w)) ∧
  ∀ (s : State) (b : Byte) (n : U16) (on : Bool) (i o : Fin 65535),
    (s.hostWrite (.argClass b) = { s with opnd := { s.opnd with argClass := b } } ∧
      (s.hostWrite (.argClass b)).portValue .argClass = b.toNat) ∧
    (s.hostWrite (.argId b) = { s with opnd := { s.opnd with argId := b } } ∧
      (s.hostWrite (.argId b)).portValue .argId = b.toNat) ∧
    (s.hostWrite (.argLen n) = { s with opnd := { s.opnd with argLen := n } } ∧
      (s.hostWrite (.argLen n)).portValue .argLen = n.toNat) ∧
    (s.hostWrite (.expClass b) = { s with opnd := { s.opnd with expClass := b } } ∧
      (s.hostWrite (.expClass b)).portValue .expClass = b.toNat) ∧
    (s.hostWrite (.expId b) = { s with opnd := { s.opnd with expId := b } } ∧
      (s.hostWrite (.expId b)).portValue .expId = b.toNat) ∧
    (s.hostWrite (.expLen n) = { s with opnd := { s.opnd with expLen := n } } ∧
      (s.hostWrite (.expLen n)).portValue .expLen = n.toNat) ∧
    (s.hostWrite (.argFmt b) = { s with opnd := { s.opnd with argFmt := b } } ∧
      (s.hostWrite (.argFmt b)).portValue .argFmt = b.toNat) ∧
    (s.hostWrite (.argOn on) = { s with opnd := { s.opnd with argOn := on } } ∧
      (s.hostWrite (.argOn on)).portValue .argOn = on.toNat) ∧
    (s.hostWrite (.argRst b) = { s with opnd := { s.opnd with argRst := b } } ∧
      (s.hostWrite (.argRst b)).portValue .argRst = b.toNat) ∧
    (s.hostWrite (.pin i b) = { s with pin := (s.hostWrite (.pin i b)).pin } ∧
      (s.hostWrite (.pin i b)).portValue (.pin i) = b.toNat ∧
      ∀ j : Fin 65535, j ≠ i → (s.hostWrite (.pin i b)).portValue (.pin j) = s.portValue (.pin j)) ∧
    (s.hostWrite (.pout o b) = { s with pout := (s.hostWrite (.pout o b)).pout } ∧
      (s.hostWrite (.pout o b)).portValue (.pout o) = b.toNat ∧
      ∀ j : Fin 65535, j ≠ o → (s.hostWrite (.pout o b)).portValue (.pout j) = s.portValue (.pout j))

/-- R27, as log 9 records it: after a command the host may read FB as a frame exactly when the command was an ENCODE that
ended with Success. -/
def Obligations.FrameReadableOnlyAfterEncode : Prop :=
  ∀ (s t : State) (opc : Byte) (rest : List Input), s.host.inputs = .issue opc :: rest → step s = .next t →
    (t.frameReady = true ↔ opc = 0x02 ∧ t.status = .success)

/-! ## Invariants -/

/-- R36 with R28 to R30, R65: the state after reset is good. -/
def Obligations.ResetStateIsGood : Prop := State.reset.Good

/-- R28, R29, R30, R65, R160 and the canonical form of the spaces: from every good state, whatever the host and the peer
do, every step leads to a good state. -/
def Obligations.EveryStepKeepsGood : Prop := ∀ s t : State, s.Good → step s = .next t → t.Good
end

