-- ==== Sys2Proof/Laws/Memory.lean ====
section
/-! SUPPORT. The laws of the byte spaces: read after write, the bytes a write leaves alone, and that every operation keeps
the canonical form and the bound of a space. -/

namespace Sys2Proof.Machine

/-! ## Reading after writing -/

theorem Memory.read_insertCell (m : Memory) (c : Host.Cell) (j : Nat) (h : ∀ d ∈ m, d.1 ≠ c.1) :
    (Memory.insertCell c m).read j = if j = c.1 then c.2 else m.read j := by
  induction m with
  | nil => simp [Memory.insertCell, Memory.read, eq_comm]
  | cons d rest ih =>
    have hd : d.1 ≠ c.1 := h d (by simp)
    have ih := ih (fun e he => h e (by simp [he]))
    unfold Memory.insertCell
    split
    · simp [Memory.read, eq_comm]
    · simp only [Memory.read, ih]
      by_cases hj : j = c.1
      · subst hj; simp [hd]
      · simp [hj]

theorem Memory.read_filter (m : Memory) (i j : Nat) :
    Memory.read (m.filter (fun c => decide (c.1 ≠ i))) j = if j = i then Memory.unlisted else m.read j := by
  induction m with
  | nil => simp [Memory.read]
  | cons d rest ih =>
    by_cases hd : d.1 = i
    · by_cases hj : j = i
      · simpa [List.filter_cons, hd, hj] using ih
      · have hdj : d.1 ≠ j := by rw [hd]; exact fun h => hj h.symm
        simpa [List.filter_cons, hd, hj, Memory.read, hdj, Ne.symm hj] using ih
    · by_cases hj : d.1 = j
      · have hji : j ≠ i := hj ▸ hd
        simp [Memory.read, hj, hji]
      · simpa [List.filter_cons, hd, Memory.read, hj] using ih

/-- A write changes exactly the byte it names. -/
theorem Memory.read_write (m : Memory) (i j : Nat) (b : Byte) :
    (m.write i b).read j = if j = i then b else m.read j := by
  unfold Memory.write
  split
  · rename_i h; rw [Memory.read_filter, h]
  · rw [Memory.read_insertCell _ _ _ (by simp [List.mem_filter]), Memory.read_filter]
    by_cases hj : j = i <;> simp [hj]

@[simp] theorem Memory.read_write_same (m : Memory) (i : Nat) (b : Byte) : (m.write i b).read i = b := by
  simp [Memory.read_write]

theorem Memory.read_write_other (m : Memory) (i j : Nat) (b : Byte) (h : j ≠ i) :
    (m.write i b).read j = m.read j := by simp [Memory.read_write, h]

/-- A range write changes exactly the bytes of its range, each to the byte of the sequence at its offset. -/
theorem Memory.read_writeRange (m : Memory) (i j : Nat) (s : Bytes) :
    (m.writeRange i s).read j = if i ≤ j ∧ j < i + s.length then s.getD (j - i) 0 else m.read j := by
  induction s generalizing m i with
  | nil => rw [if_neg (by simp)]; rfl
  | cons b rest ih =>
    rw [Memory.writeRange, ih, Memory.read_write]
    by_cases h1 : i + 1 ≤ j ∧ j < i + 1 + rest.length
    · rw [if_pos h1, if_pos (by simp; omega), show j - i = (j - (i + 1)) + 1 by omega]; simp
    · rw [if_neg h1]
      by_cases h2 : j = i
      · subst h2; simp
      · rw [if_neg h2, if_neg (by simp; omega)]

theorem Memory.read_writeRange_inside (m : Memory) (i k : Nat) (s : Bytes) (h : k < s.length) :
    (m.writeRange i s).read (i + k) = s.getD k 0 := by
  rw [Memory.read_writeRange, if_pos ⟨by omega, by omega⟩]; congr 1; omega

theorem Memory.read_writeRange_outside (m : Memory) (i j : Nat) (s : Bytes) (h : j < i ∨ i + s.length ≤ j) :
    (m.writeRange i s).read j = m.read j := by
  rw [Memory.read_writeRange, if_neg (by omega)]

theorem Memory.holdsFrom_writeRange (m : Memory) (i : Nat) (s : Bytes) : holdsFrom m (m.writeRange i s) i s :=
  ⟨fun k h => Memory.read_writeRange_inside m i k s h, fun j h => Memory.read_writeRange_outside m i j s h⟩

/-! ## Reading a range -/

@[simp] theorem Memory.length_readRange (m : Memory) (i n : Nat) : (m.readRange i n).length = n := by
  induction n generalizing i with
  | zero => rfl
  | succ n ih => simp [Memory.readRange, ih]

theorem Memory.getD_readRange (m : Memory) (i n k : Nat) (h : k < n) : (m.readRange i n).getD k 0 = m.read (i + k) := by
  induction n generalizing i k with
  | zero => omega
  | succ n ih =>
    cases k with
    | zero => simp [Memory.readRange]
    | succ k => rw [Memory.readRange, List.getD_cons_succ, ih _ _ (by omega)]; congr 1; omega

/-- The range read lists the bytes of the space. -/
theorem Memory.readRange_eq_spaceBytes (m : Memory) (i n : Nat) : m.readRange i n = spaceBytes m i n := by
  induction n generalizing i with
  | zero => rfl
  | succ n ih =>
    rw [Memory.readRange, ih, spaceBytes, spaceBytes, List.range_succ_eq_map, List.map_cons, List.map_map]
    simp only [Nat.add_zero, List.cons.injEq, true_and]
    exact List.map_congr_left fun k _ => by simp only [Function.comp]; congr 1; omega

/-- Two ranges with the same bytes are the same sequence. -/
theorem Memory.readRange_congr (m m' : Memory) (i n : Nat) (h : ∀ k, k < n → m.read (i + k) = m'.read (i + k)) :
    m.readRange i n = m'.readRange i n := by
  rw [Memory.readRange_eq_spaceBytes, Memory.readRange_eq_spaceBytes]
  exact List.map_congr_left fun k hk => h k (List.mem_range.mp hk)

/-- What was written over a range is read back from it. -/
theorem Memory.readRange_writeRange_same (m : Memory) (i : Nat) (s : Bytes) :
    (m.writeRange i s).readRange i s.length = s := by
  apply List.ext_getElem (by simp)
  intro k h1 h2
  have h := Memory.getD_readRange (m.writeRange i s) i s.length k h2
  rw [Memory.read_writeRange_inside _ _ _ _ h2, List.getD_eq_getElem _ _ h1, List.getD_eq_getElem _ _ h2] at h
  exact h

/-- A range inside a written one is the corresponding piece of the sequence. -/
theorem Memory.readRange_writeRange_part (m : Memory) (i o n : Nat) (s : Bytes) (h : o + n ≤ s.length) :
    (m.writeRange i s).readRange (i + o) n = (s.drop o).take n := by
  apply List.ext_getElem (by simp; omega)
  intro k h1 h2
  have hk : k < n := by simpa using h1
  have h' := Memory.getD_readRange (m.writeRange i s) (i + o) n k hk
  rw [show i + o + k = i + (o + k) by omega, Memory.read_writeRange_inside _ _ _ _ (by omega),
    List.getD_eq_getElem _ _ h1, List.getD_eq_getElem _ _ (by omega)] at h'
  simp [h']

/-! ## The canonical form and the bound -/

theorem Memory.wf_cons (c : Host.Cell) (m : Memory) :
    Memory.wf (c :: m) = true ↔ c.2 ≠ Memory.unlisted ∧ (∀ d ∈ m, c.1 < d.1) ∧ m.wf = true := by
  obtain ⟨i, b⟩ := c
  simp only [Memory.wf, Bool.and_eq_true, decide_eq_true_eq, List.all_eq_true]; tauto

theorem Memory.wf_filter (m : Memory) (p : Host.Cell → Bool) (h : m.wf = true) : Memory.wf (m.filter p) = true := by
  induction m with
  | nil => rfl
  | cons c rest ih =>
    rw [Memory.wf_cons] at h
    rw [List.filter_cons]
    split
    · exact (Memory.wf_cons _ _).2 ⟨h.1, fun d hd => h.2.1 d (List.mem_of_mem_filter hd), ih h.2.2⟩
    · exact ih h.2.2

theorem Memory.mem_insertCell (m : Memory) (c d : Host.Cell) (h : d ∈ Memory.insertCell c m) : d = c ∨ d ∈ m := by
  induction m with
  | nil => simpa [Memory.insertCell] using h
  | cons e rest ih =>
    unfold Memory.insertCell at h
    split at h
    · simpa using h
    · rcases List.mem_cons.mp h with h | h
      · exact Or.inr (by simp [h])
      · rcases ih h with h | h
        · exact Or.inl h
        · exact Or.inr (by simp [h])

theorem Memory.wf_insertCell (m : Memory) (c : Host.Cell) (hm : m.wf = true) (hc : c.2 ≠ Memory.unlisted)
    (hne : ∀ d ∈ m, d.1 ≠ c.1) : Memory.wf (Memory.insertCell c m) = true := by
  induction m with
  | nil => exact (Memory.wf_cons _ _).2 ⟨hc, by simp, rfl⟩
  | cons d rest ih =>
    have hd := (Memory.wf_cons _ _).1 hm
    have hdc := hne d (by simp)
    unfold Memory.insertCell
    split
    · rename_i hlt
      refine (Memory.wf_cons _ _).2 ⟨hc, fun e he => ?_, hm⟩
      rcases List.mem_cons.mp he with rfl | he
      · exact hlt
      · exact lt_trans hlt (hd.2.1 e he)
    · refine (Memory.wf_cons _ _).2 ⟨hd.1, fun e he => ?_, ih hd.2.2 fun e he => hne e (by simp [he])⟩
      rcases Memory.mem_insertCell _ _ _ he with rfl | he
      · omega
      · exact hd.2.1 e he

/-- A write keeps the canonical form. -/
theorem Memory.wf_write (m : Memory) (i : Nat) (b : Byte) (h : m.wf = true) : (m.write i b).wf = true := by
  unfold Memory.write
  split
  · exact Memory.wf_filter _ _ h
  · rename_i hb
    exact Memory.wf_insertCell _ _ (Memory.wf_filter _ _ h) hb (by simp [List.mem_filter])

/-- A range write keeps the canonical form. -/
theorem Memory.wf_writeRange (m : Memory) (i : Nat) (s : Bytes) (h : m.wf = true) : (m.writeRange i s).wf = true := by
  induction s generalizing m i with
  | nil => exact h
  | cons b rest ih => exact ih _ _ (Memory.wf_write _ _ _ h)

theorem Memory.below_iff (m : Memory) (size : Nat) : m.below size = true ↔ ∀ c ∈ m, c.1 < size := by
  simp [Memory.below]

/-- A write inside a space keeps every listed index inside it. -/
theorem Memory.below_write (m : Memory) (size i : Nat) (b : Byte) (h : m.below size = true) (hi : i < size) :
    (m.write i b).below size = true := by
  rw [Memory.below_iff] at h ⊢
  intro c hc
  unfold Memory.write at hc
  split at hc
  · exact h c (List.mem_of_mem_filter hc)
  · rcases Memory.mem_insertCell _ _ _ hc with rfl | hc
    · exact hi
    · exact h c (List.mem_of_mem_filter hc)

/-- A range write inside a space keeps every listed index inside it. -/
theorem Memory.below_writeRange (m : Memory) (size i : Nat) (s : Bytes) (h : m.below size = true)
    (hi : i + s.length ≤ size) : (m.writeRange i s).below size = true := by
  induction s generalizing m i with
  | nil => exact h
  | cons b rest ih =>
    simp only [List.length_cons] at hi
    exact ih _ _ (Memory.below_write _ _ _ _ h (by omega)) (by omega)

end Sys2Proof.Machine
end

