-- ==== Sys2Proof/Laws/State.lean ====
section
/-! SUPPORT. One lemma per field of State per named update, true by unfolding the update, so that no later proof unfolds a
record update. -/

namespace Sys2Proof.Machine

/-! ## State.finish -/

@[simp] theorem State.finish_cfg (s : State) (st : Status) :
    (s.finish st).cfg = s.cfg := rfl
@[simp] theorem State.finish_mode (s : State) (st : Status) :
    (s.finish st).mode = s.mode := rfl
@[simp] theorem State.finish_opnd (s : State) (st : Status) :
    (s.finish st).opnd = s.opnd := rfl
@[simp] theorem State.finish_status (s : State) (st : Status) :
    (s.finish st).status = st := rfl
@[simp] theorem State.finish_event (s : State) (st : Status) :
    (s.finish st).event = s.event := rfl
@[simp] theorem State.finish_resLen (s : State) (st : Status) :
    (s.finish st).resLen = s.resLen := rfl
@[simp] theorem State.finish_resCkA (s : State) (st : Status) :
    (s.finish st).resCkA = s.resCkA := rfl
@[simp] theorem State.finish_resCkB (s : State) (st : Status) :
    (s.finish st).resCkB = s.resCkB := rfl
@[simp] theorem State.finish_fix (s : State) (st : Status) :
    (s.finish st).fix = s.fix := rfl
@[simp] theorem State.finish_session (s : State) (st : Status) :
    (s.finish st).session = s.session := rfl
@[simp] theorem State.finish_fb (s : State) (st : Status) :
    (s.finish st).fb = s.fb := rfl
@[simp] theorem State.finish_lb (s : State) (st : Status) :
    (s.finish st).lb = s.lb := rfl
@[simp] theorem State.finish_lbCursor (s : State) (st : Status) :
    (s.finish st).lbCursor = s.lbCursor := rfl
@[simp] theorem State.finish_idleCount (s : State) (st : Status) :
    (s.finish st).idleCount = s.idleCount := rfl
@[simp] theorem State.finish_cb (s : State) (st : Status) :
    (s.finish st).cb = s.cb := rfl
@[simp] theorem State.finish_cbLen (s : State) (st : Status) :
    (s.finish st).cbLen = s.cbLen := rfl
@[simp] theorem State.finish_pin (s : State) (st : Status) :
    (s.finish st).pin = s.pin := rfl
@[simp] theorem State.finish_pout (s : State) (st : Status) :
    (s.finish st).pout = s.pout := rfl
@[simp] theorem State.finish_env (s : State) (st : Status) :
    (s.finish st).env = s.env := rfl
@[simp] theorem State.finish_host (s : State) (st : Status) :
    (s.finish st).host = s.host := rfl
@[simp] theorem State.finish_frameReady (s : State) (st : Status) :
    (s.finish st).frameReady = s.frameReady := rfl

/-! ## State.peerDelivers -/

@[simp] theorem State.peerDelivers_cfg (s : State) (bytes : Bytes) :
    (s.peerDelivers bytes).cfg = s.cfg := rfl
@[simp] theorem State.peerDelivers_mode (s : State) (bytes : Bytes) :
    (s.peerDelivers bytes).mode = s.mode := rfl
@[simp] theorem State.peerDelivers_opnd (s : State) (bytes : Bytes) :
    (s.peerDelivers bytes).opnd = s.opnd := rfl
@[simp] theorem State.peerDelivers_status (s : State) (bytes : Bytes) :
    (s.peerDelivers bytes).status = s.status := rfl
@[simp] theorem State.peerDelivers_event (s : State) (bytes : Bytes) :
    (s.peerDelivers bytes).event = s.event := rfl
@[simp] theorem State.peerDelivers_resLen (s : State) (bytes : Bytes) :
    (s.peerDelivers bytes).resLen = s.resLen := rfl
@[simp] theorem State.peerDelivers_resCkA (s : State) (bytes : Bytes) :
    (s.peerDelivers bytes).resCkA = s.resCkA := rfl
@[simp] theorem State.peerDelivers_resCkB (s : State) (bytes : Bytes) :
    (s.peerDelivers bytes).resCkB = s.resCkB := rfl
@[simp] theorem State.peerDelivers_fix (s : State) (bytes : Bytes) :
    (s.peerDelivers bytes).fix = s.fix := rfl
@[simp] theorem State.peerDelivers_session (s : State) (bytes : Bytes) :
    (s.peerDelivers bytes).session = s.session := rfl
@[simp] theorem State.peerDelivers_fb (s : State) (bytes : Bytes) :
    (s.peerDelivers bytes).fb = s.fb := rfl
@[simp] theorem State.peerDelivers_lb (s : State) (bytes : Bytes) :
    (s.peerDelivers bytes).lb = s.lb := rfl
@[simp] theorem State.peerDelivers_lbCursor (s : State) (bytes : Bytes) :
    (s.peerDelivers bytes).lbCursor = s.lbCursor := rfl
@[simp] theorem State.peerDelivers_idleCount (s : State) (bytes : Bytes) :
    (s.peerDelivers bytes).idleCount = s.idleCount := rfl
@[simp] theorem State.peerDelivers_cb (s : State) (bytes : Bytes) :
    (s.peerDelivers bytes).cb = s.cb := rfl
@[simp] theorem State.peerDelivers_cbLen (s : State) (bytes : Bytes) :
    (s.peerDelivers bytes).cbLen = s.cbLen := rfl
@[simp] theorem State.peerDelivers_pin (s : State) (bytes : Bytes) :
    (s.peerDelivers bytes).pin = s.pin := rfl
@[simp] theorem State.peerDelivers_pout (s : State) (bytes : Bytes) :
    (s.peerDelivers bytes).pout = s.pout := rfl
@[simp] theorem State.peerDelivers_env (s : State) (bytes : Bytes) :
    (s.peerDelivers bytes).env = s.env.deliver bytes := rfl
@[simp] theorem State.peerDelivers_host (s : State) (bytes : Bytes) :
    (s.peerDelivers bytes).host = s.host := rfl
@[simp] theorem State.peerDelivers_frameReady (s : State) (bytes : Bytes) :
    (s.peerDelivers bytes).frameReady = s.frameReady := rfl

/-! ## State.startCommand -/

@[simp] theorem State.startCommand_cfg (s : State) (opc : Byte) :
    (s.startCommand opc).cfg = s.cfg := rfl
@[simp] theorem State.startCommand_mode (s : State) (opc : Byte) :
    (s.startCommand opc).mode = s.mode := rfl
@[simp] theorem State.startCommand_opnd (s : State) (opc : Byte) :
    (s.startCommand opc).opnd = { s.opnd with opc := opc } := rfl
@[simp] theorem State.startCommand_status (s : State) (opc : Byte) :
    (s.startCommand opc).status = s.status := rfl
@[simp] theorem State.startCommand_event (s : State) (opc : Byte) :
    (s.startCommand opc).event = s.event := rfl
@[simp] theorem State.startCommand_resLen (s : State) (opc : Byte) :
    (s.startCommand opc).resLen = s.resLen := rfl
@[simp] theorem State.startCommand_resCkA (s : State) (opc : Byte) :
    (s.startCommand opc).resCkA = s.resCkA := rfl
@[simp] theorem State.startCommand_resCkB (s : State) (opc : Byte) :
    (s.startCommand opc).resCkB = s.resCkB := rfl
@[simp] theorem State.startCommand_fix (s : State) (opc : Byte) :
    (s.startCommand opc).fix = s.fix := rfl
@[simp] theorem State.startCommand_session (s : State) (opc : Byte) :
    (s.startCommand opc).session = s.session := rfl
@[simp] theorem State.startCommand_fb (s : State) (opc : Byte) :
    (s.startCommand opc).fb = s.fb := rfl
@[simp] theorem State.startCommand_lb (s : State) (opc : Byte) :
    (s.startCommand opc).lb = s.lb := rfl
@[simp] theorem State.startCommand_lbCursor (s : State) (opc : Byte) :
    (s.startCommand opc).lbCursor = s.lbCursor := rfl
@[simp] theorem State.startCommand_idleCount (s : State) (opc : Byte) :
    (s.startCommand opc).idleCount = s.idleCount := rfl
@[simp] theorem State.startCommand_cb (s : State) (opc : Byte) :
    (s.startCommand opc).cb = s.cb := rfl
@[simp] theorem State.startCommand_cbLen (s : State) (opc : Byte) :
    (s.startCommand opc).cbLen = s.cbLen := rfl
@[simp] theorem State.startCommand_pin (s : State) (opc : Byte) :
    (s.startCommand opc).pin = s.pin := rfl
@[simp] theorem State.startCommand_pout (s : State) (opc : Byte) :
    (s.startCommand opc).pout = s.pout := rfl
@[simp] theorem State.startCommand_env (s : State) (opc : Byte) :
    (s.startCommand opc).env = s.env := rfl
@[simp] theorem State.startCommand_host (s : State) (opc : Byte) :
    (s.startCommand opc).host = s.host := rfl
@[simp] theorem State.startCommand_frameReady (s : State) (opc : Byte) :
    (s.startCommand opc).frameReady = false := rfl

/-! ## State.hostRead -/

@[simp] theorem State.hostRead_cfg (s : State) (p : HostPort) :
    (s.hostRead p).cfg = s.cfg := rfl
@[simp] theorem State.hostRead_mode (s : State) (p : HostPort) :
    (s.hostRead p).mode = s.mode := rfl
@[simp] theorem State.hostRead_opnd (s : State) (p : HostPort) :
    (s.hostRead p).opnd = s.opnd := rfl
@[simp] theorem State.hostRead_status (s : State) (p : HostPort) :
    (s.hostRead p).status = s.status := rfl
@[simp] theorem State.hostRead_event (s : State) (p : HostPort) :
    (s.hostRead p).event = s.event := rfl
@[simp] theorem State.hostRead_resLen (s : State) (p : HostPort) :
    (s.hostRead p).resLen = s.resLen := rfl
@[simp] theorem State.hostRead_resCkA (s : State) (p : HostPort) :
    (s.hostRead p).resCkA = s.resCkA := rfl
@[simp] theorem State.hostRead_resCkB (s : State) (p : HostPort) :
    (s.hostRead p).resCkB = s.resCkB := rfl
@[simp] theorem State.hostRead_fix (s : State) (p : HostPort) :
    (s.hostRead p).fix = s.fix := rfl
@[simp] theorem State.hostRead_session (s : State) (p : HostPort) :
    (s.hostRead p).session = s.session := rfl
@[simp] theorem State.hostRead_fb (s : State) (p : HostPort) :
    (s.hostRead p).fb = s.fb := rfl
@[simp] theorem State.hostRead_lb (s : State) (p : HostPort) :
    (s.hostRead p).lb = s.lb := rfl
@[simp] theorem State.hostRead_lbCursor (s : State) (p : HostPort) :
    (s.hostRead p).lbCursor = s.lbCursor := rfl
@[simp] theorem State.hostRead_idleCount (s : State) (p : HostPort) :
    (s.hostRead p).idleCount = s.idleCount := rfl
@[simp] theorem State.hostRead_cb (s : State) (p : HostPort) :
    (s.hostRead p).cb = s.cb := rfl
@[simp] theorem State.hostRead_cbLen (s : State) (p : HostPort) :
    (s.hostRead p).cbLen = s.cbLen := rfl
@[simp] theorem State.hostRead_pin (s : State) (p : HostPort) :
    (s.hostRead p).pin = s.pin := rfl
@[simp] theorem State.hostRead_pout (s : State) (p : HostPort) :
    (s.hostRead p).pout = s.pout := rfl
@[simp] theorem State.hostRead_env (s : State) (p : HostPort) :
    (s.hostRead p).env = s.env := rfl
@[simp] theorem State.hostRead_host (s : State) (p : HostPort) :
    (s.hostRead p).host = { s.host with data := s.portValue p, freeCount := s.host.freeCount + 1 } := rfl
@[simp] theorem State.hostRead_frameReady (s : State) (p : HostPort) :
    (s.hostRead p).frameReady = s.frameReady := rfl

/-! ## State.afterInput -/

@[simp] theorem State.afterInput_cfg (s : State) :
    (s.afterInput).cfg = s.cfg := by unfold State.afterInput; split <;> rfl
@[simp] theorem State.afterInput_mode (s : State) :
    (s.afterInput).mode = s.mode := by unfold State.afterInput; split <;> rfl
@[simp] theorem State.afterInput_opnd (s : State) :
    (s.afterInput).opnd = s.opnd := by unfold State.afterInput; split <;> rfl
@[simp] theorem State.afterInput_status (s : State) :
    (s.afterInput).status = s.status := by unfold State.afterInput; split <;> rfl
@[simp] theorem State.afterInput_event (s : State) :
    (s.afterInput).event = s.event := by unfold State.afterInput; split <;> rfl
@[simp] theorem State.afterInput_resLen (s : State) :
    (s.afterInput).resLen = s.resLen := by unfold State.afterInput; split <;> rfl
@[simp] theorem State.afterInput_resCkA (s : State) :
    (s.afterInput).resCkA = s.resCkA := by unfold State.afterInput; split <;> rfl
@[simp] theorem State.afterInput_resCkB (s : State) :
    (s.afterInput).resCkB = s.resCkB := by unfold State.afterInput; split <;> rfl
@[simp] theorem State.afterInput_fix (s : State) :
    (s.afterInput).fix = s.fix := by unfold State.afterInput; split <;> rfl
@[simp] theorem State.afterInput_session (s : State) :
    (s.afterInput).session = s.session := by unfold State.afterInput; split <;> rfl
@[simp] theorem State.afterInput_fb (s : State) :
    (s.afterInput).fb = s.fb := by unfold State.afterInput; split <;> rfl
@[simp] theorem State.afterInput_lb (s : State) :
    (s.afterInput).lb = s.lb := by unfold State.afterInput; split <;> rfl
@[simp] theorem State.afterInput_lbCursor (s : State) :
    (s.afterInput).lbCursor = s.lbCursor := by unfold State.afterInput; split <;> rfl
@[simp] theorem State.afterInput_idleCount (s : State) :
    (s.afterInput).idleCount = s.idleCount := by unfold State.afterInput; split <;> rfl
@[simp] theorem State.afterInput_cb (s : State) :
    (s.afterInput).cb = s.cb := by unfold State.afterInput; split <;> rfl
@[simp] theorem State.afterInput_cbLen (s : State) :
    (s.afterInput).cbLen = s.cbLen := by unfold State.afterInput; split <;> rfl
@[simp] theorem State.afterInput_pin (s : State) :
    (s.afterInput).pin = s.pin := by unfold State.afterInput; split <;> rfl
@[simp] theorem State.afterInput_pout (s : State) :
    (s.afterInput).pout = s.pout := by unfold State.afterInput; split <;> rfl
@[simp] theorem State.afterInput_env (s : State) :
    (s.afterInput).env = s.env := by unfold State.afterInput; split <;> rfl
@[simp] theorem State.afterInput_frameReady (s : State) :
    (s.afterInput).frameReady = s.frameReady := by unfold State.afterInput; split <;> rfl

/-! ## deliverPayload -/

@[simp] theorem deliverPayload_cfg (s : State) (len : Nat) :
    (deliverPayload s len).cfg = s.cfg := rfl
@[simp] theorem deliverPayload_mode (s : State) (len : Nat) :
    (deliverPayload s len).mode = s.mode := rfl
@[simp] theorem deliverPayload_opnd (s : State) (len : Nat) :
    (deliverPayload s len).opnd = s.opnd := rfl
@[simp] theorem deliverPayload_status (s : State) (len : Nat) :
    (deliverPayload s len).status = s.status := rfl
@[simp] theorem deliverPayload_event (s : State) (len : Nat) :
    (deliverPayload s len).event = s.event := rfl
@[simp] theorem deliverPayload_resLen (s : State) (len : Nat) :
    (deliverPayload s len).resLen = len := rfl
@[simp] theorem deliverPayload_resCkA (s : State) (len : Nat) :
    (deliverPayload s len).resCkA = s.resCkA := rfl
@[simp] theorem deliverPayload_resCkB (s : State) (len : Nat) :
    (deliverPayload s len).resCkB = s.resCkB := rfl
@[simp] theorem deliverPayload_fix (s : State) (len : Nat) :
    (deliverPayload s len).fix = s.fix := rfl
@[simp] theorem deliverPayload_session (s : State) (len : Nat) :
    (deliverPayload s len).session = s.session := rfl
@[simp] theorem deliverPayload_fb (s : State) (len : Nat) :
    (deliverPayload s len).fb = s.fb := rfl
@[simp] theorem deliverPayload_lb (s : State) (len : Nat) :
    (deliverPayload s len).lb = s.lb := rfl
@[simp] theorem deliverPayload_lbCursor (s : State) (len : Nat) :
    (deliverPayload s len).lbCursor = s.lbCursor := rfl
@[simp] theorem deliverPayload_idleCount (s : State) (len : Nat) :
    (deliverPayload s len).idleCount = s.idleCount := rfl
@[simp] theorem deliverPayload_cb (s : State) (len : Nat) :
    (deliverPayload s len).cb = s.cb := rfl
@[simp] theorem deliverPayload_cbLen (s : State) (len : Nat) :
    (deliverPayload s len).cbLen = s.cbLen := rfl
@[simp] theorem deliverPayload_pin (s : State) (len : Nat) :
    (deliverPayload s len).pin = s.pin := rfl
@[simp] theorem deliverPayload_pout (s : State) (len : Nat) :
    (deliverPayload s len).pout = s.pout.copyOut (s.framePayload len) := rfl
@[simp] theorem deliverPayload_env (s : State) (len : Nat) :
    (deliverPayload s len).env = s.env := rfl
@[simp] theorem deliverPayload_host (s : State) (len : Nat) :
    (deliverPayload s len).host = s.host := rfl
@[simp] theorem deliverPayload_frameReady (s : State) (len : Nat) :
    (deliverPayload s len).frameReady = s.frameReady := rfl

/-! ## receive -/

@[simp] theorem receive_cfg (s : State) (len : Nat) :
    (receive s len).cfg = s.cfg := rfl
@[simp] theorem receive_mode (s : State) (len : Nat) :
    (receive s len).mode = s.mode := rfl
@[simp] theorem receive_opnd (s : State) (len : Nat) :
    (receive s len).opnd = s.opnd := rfl
@[simp] theorem receive_status (s : State) (len : Nat) :
    (receive s len).status = s.status := rfl
@[simp] theorem receive_event (s : State) (len : Nat) :
    (receive s len).event = s.event := rfl
@[simp] theorem receive_resLen (s : State) (len : Nat) :
    (receive s len).resLen = s.resLen := rfl
@[simp] theorem receive_resCkA (s : State) (len : Nat) :
    (receive s len).resCkA = s.resCkA := rfl
@[simp] theorem receive_resCkB (s : State) (len : Nat) :
    (receive s len).resCkB = s.resCkB := rfl
@[simp] theorem receive_fix (s : State) (len : Nat) :
    (receive s len).fix = s.fix := rfl
@[simp] theorem receive_session (s : State) (len : Nat) :
    (receive s len).session = { count := (tReadExact s.env (frameLength len) s.cfg.readTimeoutMs).1.length, ckA := 0, ckB := 0 } := rfl
@[simp] theorem receive_fb (s : State) (len : Nat) :
    (receive s len).fb = s.fb.writeRange 0 (tReadExact s.env (frameLength len) s.cfg.readTimeoutMs).1 := rfl
@[simp] theorem receive_lb (s : State) (len : Nat) :
    (receive s len).lb = s.lb := rfl
@[simp] theorem receive_lbCursor (s : State) (len : Nat) :
    (receive s len).lbCursor = s.lbCursor := rfl
@[simp] theorem receive_idleCount (s : State) (len : Nat) :
    (receive s len).idleCount = s.idleCount := rfl
@[simp] theorem receive_cb (s : State) (len : Nat) :
    (receive s len).cb = s.cb := rfl
@[simp] theorem receive_cbLen (s : State) (len : Nat) :
    (receive s len).cbLen = s.cbLen := rfl
@[simp] theorem receive_pin (s : State) (len : Nat) :
    (receive s len).pin = s.pin := rfl
@[simp] theorem receive_pout (s : State) (len : Nat) :
    (receive s len).pout = s.pout := rfl
@[simp] theorem receive_env (s : State) (len : Nat) :
    (receive s len).env = (tReadExact s.env (frameLength len) s.cfg.readTimeoutMs).2 := rfl
@[simp] theorem receive_host (s : State) (len : Nat) :
    (receive s len).host = s.host := rfl
@[simp] theorem receive_frameReady (s : State) (len : Nat) :
    (receive s len).frameReady = s.frameReady := rfl

/-! ## hardwareReset -/

@[simp] theorem hardwareReset_cfg (s : State) (strap : Mode) :
    (hardwareReset strap s).cfg = s.cfg := rfl
@[simp] theorem hardwareReset_mode (s : State) (strap : Mode) :
    (hardwareReset strap s).mode = strap := rfl
@[simp] theorem hardwareReset_opnd (s : State) (strap : Mode) :
    (hardwareReset strap s).opnd = State.reset.opnd := rfl
@[simp] theorem hardwareReset_status (s : State) (strap : Mode) :
    (hardwareReset strap s).status = State.reset.status := rfl
@[simp] theorem hardwareReset_event (s : State) (strap : Mode) :
    (hardwareReset strap s).event = State.reset.event := rfl
@[simp] theorem hardwareReset_resLen (s : State) (strap : Mode) :
    (hardwareReset strap s).resLen = State.reset.resLen := rfl
@[simp] theorem hardwareReset_resCkA (s : State) (strap : Mode) :
    (hardwareReset strap s).resCkA = State.reset.resCkA := rfl
@[simp] theorem hardwareReset_resCkB (s : State) (strap : Mode) :
    (hardwareReset strap s).resCkB = State.reset.resCkB := rfl
@[simp] theorem hardwareReset_fix (s : State) (strap : Mode) :
    (hardwareReset strap s).fix = State.reset.fix := rfl
@[simp] theorem hardwareReset_session (s : State) (strap : Mode) :
    (hardwareReset strap s).session = State.reset.session := rfl
@[simp] theorem hardwareReset_fb (s : State) (strap : Mode) :
    (hardwareReset strap s).fb = State.reset.fb := rfl
@[simp] theorem hardwareReset_lb (s : State) (strap : Mode) :
    (hardwareReset strap s).lb = State.reset.lb := rfl
@[simp] theorem hardwareReset_lbCursor (s : State) (strap : Mode) :
    (hardwareReset strap s).lbCursor = State.reset.lbCursor := rfl
@[simp] theorem hardwareReset_idleCount (s : State) (strap : Mode) :
    (hardwareReset strap s).idleCount = State.reset.idleCount := rfl
@[simp] theorem hardwareReset_cb (s : State) (strap : Mode) :
    (hardwareReset strap s).cb = State.reset.cb := rfl
@[simp] theorem hardwareReset_cbLen (s : State) (strap : Mode) :
    (hardwareReset strap s).cbLen = State.reset.cbLen := rfl
@[simp] theorem hardwareReset_pin (s : State) (strap : Mode) :
    (hardwareReset strap s).pin = s.pin := rfl
@[simp] theorem hardwareReset_pout (s : State) (strap : Mode) :
    (hardwareReset strap s).pout = s.pout := rfl
@[simp] theorem hardwareReset_env (s : State) (strap : Mode) :
    (hardwareReset strap s).env = s.env := rfl
@[simp] theorem hardwareReset_host (s : State) (strap : Mode) :
    (hardwareReset strap s).host = s.host := rfl
@[simp] theorem hardwareReset_frameReady (s : State) (strap : Mode) :
    (hardwareReset strap s).frameReady = State.reset.frameReady := rfl

end Sys2Proof.Machine
end

