-- ==== Sys2Proof/Laws/Transport.lean ====
section
/-! SUPPORT. What each transport primitive does, once (R66 to R68). -/

namespace Sys2Proof.Machine

@[simp] theorem Env.deliver_rxq (e : Env) (bytes : Bytes) : (e.deliver bytes).rxq = e.rxq ++ bytes := rfl
@[simp] theorem Env.deliver_tx (e : Env) (bytes : Bytes) : (e.deliver bytes).tx = e.tx := rfl
@[simp] theorem Env.deliver_draws (e : Env) (bytes : Bytes) : (e.deliver bytes).draws = e.draws := rfl
@[simp] theorem Env.deliver_drawCount (e : Env) (bytes : Bytes) : (e.deliver bytes).drawCount = e.drawCount := rfl
@[simp] theorem Env.deliver_draw (e : Env) (bytes : Bytes) : (e.deliver bytes).draw = e.draw := rfl

@[simp] theorem Env.advance_rxq (e : Env) : e.advance.rxq = e.rxq := by unfold Env.advance; split <;> rfl
@[simp] theorem Env.advance_tx (e : Env) : e.advance.tx = e.tx := by unfold Env.advance; split <;> rfl

theorem Env.accepted_le (e : Env) (s : Bytes) : e.accepted s ≤ s.length := Nat.min_le_right _ _

theorem Env.accepted_eq_length_iff (e : Env) (s : Bytes) : e.accepted s = s.length ↔ s.length ≤ e.draw.accepts := by
  unfold Env.accepted; omega

theorem Env.take_accepted (e : Env) (s : Bytes) : s.take (e.accepted s) = s.take e.draw.accepts := by
  unfold Env.accepted
  by_cases h : e.draw.accepts ≤ s.length
  · rw [Nat.min_eq_left h]
  · rw [Nat.min_eq_right (by omega), List.take_length, List.take_of_length_le (by omega)]

@[simp] theorem tWrite_count (e : Env) (s : Bytes) : (tWrite e s).1 = e.accepted s := rfl
@[simp] theorem tWrite_tx (e : Env) (s : Bytes) : (tWrite e s).2.tx = e.tx ++ s.take (e.accepted s) := rfl
@[simp] theorem tWrite_rxq (e : Env) (s : Bytes) : (tWrite e s).2.rxq = e.rxq ++ e.draw.after := by
  simp [tWrite]
@[simp] theorem tWrite_draw (e : Env) (s : Bytes) : (tWrite e s).2.draw = e.advance.draw := rfl

@[simp] theorem tReadExact_tx (e : Env) (count timeout : Nat) : (tReadExact e count timeout).2.tx = e.tx := by
  simp [tReadExact]
@[simp] theorem tReadExact_draw (e : Env) (count timeout : Nat) :
    (tReadExact e count timeout).2.draw = e.advance.draw := rfl

theorem tReadExact_length_le (e : Env) (count timeout : Nat) : (tReadExact e count timeout).1.length ≤ count := by
  simp [tReadExact]

/-- A call that finds `count` bytes in RXQ takes them at once. -/
theorem tReadExact_of_le (e : Env) (count timeout : Nat) (h : count ≤ e.rxq.length) :
    (tReadExact e count timeout).1 = e.rxq.take count ∧
      (tReadExact e count timeout).2.rxq = e.rxq.drop count ++ e.draw.after := by
  simp [tReadExact, Env.visible, h]

/-- A call that finds fewer waits: the bytes that arrive count. -/
theorem tReadExact_of_lt (e : Env) (count timeout : Nat) (h : e.rxq.length < count) :
    (tReadExact e count timeout).1 = (e.rxq ++ e.draw.waits).take count ∧
      (tReadExact e count timeout).2.rxq = (e.rxq ++ e.draw.waits).drop count ++ e.draw.after := by
  simp [tReadExact, Env.visible, Nat.not_le.mpr h]

/-- After a short read nothing is left of what had arrived. -/
theorem tReadExact_short (e : Env) (count timeout : Nat) (h : (tReadExact e count timeout).1.length < count) :
    (tReadExact e count timeout).2.rxq = e.draw.after := by
  simp only [tReadExact, Env.deliver_rxq, List.length_take] at h ⊢
  rw [List.drop_of_length_le (by omega), List.nil_append]

@[simp] theorem tBuffered_count (e : Env) : (tBuffered e).1 = e.rxq.length := rfl
@[simp] theorem tBuffered_tx (e : Env) : (tBuffered e).2.tx = e.tx := by simp [tBuffered]
@[simp] theorem tBuffered_rxq (e : Env) : (tBuffered e).2.rxq = e.rxq ++ e.draw.after := by simp [tBuffered]
@[simp] theorem tBuffered_draw (e : Env) : (tBuffered e).2.draw = e.advance.draw := rfl

/-- The read of the count TBuffered reported returns exactly the bytes that were waiting (R68). -/
theorem tReadExact_after_tBuffered (e : Env) (timeout : Nat) :
    (tReadExact (tBuffered e).2 e.rxq.length timeout).1 = e.rxq ∧
      (tReadExact (tBuffered e).2 e.rxq.length timeout).2.rxq = e.draw.after ++ e.advance.draw.after := by
  have h := tReadExact_of_le (tBuffered e).2 e.rxq.length timeout (by simp)
  simpa using h

end Sys2Proof.Machine
end

