-- ==== Sys2Proof/Laws/Codec.lean ====
section
/-! SUPPORT. What each internal procedure of the codec does, once: EncodeFrame (R130), Transmit (R132), DecodeFrame against
the outcome table (R133, R141), and the exchange built of them (R170). -/

namespace Sys2Proof.Machine

@[simp] theorem frameLength_eq (n : Nat) : frameLength n = 8 + n := by
  simp only [frameLength, headerSize, trailerSize]; omega

@[simp] theorem length_frameWith (cls id : Byte) (p : Bytes) (a b : Byte) :
    (frameWith cls id p a b).length = 8 + p.length := by simp [frameWith]; omega

@[simp] theorem length_frameBytes (cls id : Byte) (p : Bytes) : (frameBytes cls id p).length = 8 + p.length := by
  simp [frameBytes]

@[simp] theorem length_argPayload (s : State) : s.argPayload.length = s.opnd.argLen.toNat := by
  simp [State.argPayload, State.argLength]

theorem argPayload_eq (s : State) : s.argPayload = spaceBytes s.pin 0 s.opnd.argLen.toNat := by
  simp [State.argPayload, State.argLength, Memory.readRange_eq_spaceBytes]

theorem length_setFormat (p : Bytes) (k : Nat) (on : Bool) : (setFormat p k on).length = p.length := by
  simp [setFormat]

theorem le16_toNat (b0 b1 : Byte) : (le16 b0 b1).toNat = b0.toNat + 256 * b1.toNat := by
  have h0 := b0.isLt
  rw [le16, BitVec.toNat_append, ← Nat.shiftLeft_add_eq_or_of_lt h0, Nat.shiftLeft_eq]; omega

/-- EncodeFrame: an overflow changes nothing; otherwise the frame stands in FB from index 0. -/
theorem encodeFrame_eq (s : State) (cls id : Byte) (p : Bytes) :
    encodeFrame s cls id p =
      if s.cfg.maxFrame < 8 + p.length then (.encodeOverflow, s)
      else (.success, { s with fb := s.fb.writeRange 0 (frameBytes cls id p) }) := by
  simp [encodeFrame]

/-- EncodeFrame then Transmit: the TX stream gains what the transport accepts of the frame, and the status says whether
that was all of it. -/
theorem sendFrame_eq (s : State) (cls id : Byte) (p : Bytes) :
    sendFrame s cls id p =
      if s.cfg.maxFrame < 8 + p.length then (.encodeOverflow, s)
      else
        (if s.env.draw.accepts < 8 + p.length then .transmitFailed else .success,
          { s with
            fb := s.fb.writeRange 0 (frameBytes cls id p)
            env := (tWrite s.env (frameBytes cls id p)).2 }) := by
  unfold sendFrame
  rw [encodeFrame_eq]
  by_cases hmax : s.cfg.maxFrame < 8 + p.length
  · simp [hmax]
  · have hr := Memory.readRange_writeRange_same s.fb 0 (frameBytes cls id p)
    have hw := Env.accepted_eq_length_iff s.env (frameBytes cls id p)
    rw [length_frameBytes] at hr hw
    rw [if_neg hmax, if_neg hmax]
    simp only [transmit, frameLength_eq, hr, tWrite_count, Prod.mk.injEq, and_true]
    by_cases h : s.env.draw.accepts < 8 + p.length
    · rw [if_neg (by omega), if_pos h]
    · rw [if_pos (by omega), if_neg h]

/-- DecodeFrame: the status is the first row of the outcome table that applies to the bytes the one read returned (R141);
FB holds those bytes, the ReceiveSession and the environment are as R133 says, and nothing else changes. -/
theorem decodeFrame_eq (s : State) (cls id : Byte) (len : Nat) :
    decodeFrame s cls id len =
      (decodeOutcome cls id len (responseBytes s.env s len),
        { s with
          env := responseEnv s.env s len
          fb := s.fb.writeRange 0 (responseBytes s.env s len)
          session := decodeSession cls id len (responseBytes s.env s len) }) := by
  have hle := tReadExact_length_le s.env (8 + len) s.cfg.readTimeoutMs
  simp only [decodeFrame, receive, frameLength_eq, responseBytes, responseEnv]
  generalize hr : (tReadExact s.env (8 + len) s.cfg.readTimeoutMs).1 = r at hle ⊢
  generalize (tReadExact s.env (8 + len) s.cfg.readTimeoutMs).2 = e
  by_cases hlen : r.length = 8 + len
  · have hread : ∀ k, k < 8 + len → (s.fb.writeRange 0 r).read k = r.getD k 0 := fun k hk => by
      have := Memory.read_writeRange_inside s.fb 0 k r (by omega)
      rwa [Nat.zero_add] at this
    have hbody : (s.fb.writeRange 0 r).readRange 2 (4 + len) = (r.drop 2).take (4 + len) := by
      have := Memory.readRange_writeRange_part s.fb 0 2 (4 + len) r (by omega)
      rwa [Nat.zero_add] at this
    simp only [hlen, ne_eq, not_true_eq_false, if_false, headerFailure, checkTrailer, hbody, hread 0 (by omega),
      hread 1 (by omega), hread 2 (by omega), hread 3 (by omega), hread 4 (by omega), hread 5 (by omega),
      hread (6 + len) (by omega), hread (7 + len) (by omega), le16_toNat, sync1, sync2, decodeOutcome, decodeSession,
      lt_irrefl]
    generalize r.getD 0 0 = r0, r.getD 1 0 = r1, r.getD 2 0 = r2, r.getD 3 0 = r3, r.getD 4 0 = r4, r.getD 5 0 = r5,
      r.getD (6 + len) 0 = a, r.getD (7 + len) 0 = b, checksum ((r.drop 2).take (4 + len)) = pair
    obtain ⟨pa, pb⟩ := pair
    by_cases h0 : r0 = 0xB5#8
    · by_cases h1 : r1 = 0x62#8
      · by_cases h2 : r2 = cls
        · by_cases h3 : r3 = id
          · by_cases h4 : r4.toNat + 256 * r5.toNat = len
            · by_cases h5 : a = pa ∧ b = pb
              · simp [h0, h1, h2, h3, h4, h5]
              · simp [h0, h1, h2, h3, h4, h5]
            · simp [h0, h1, h2, h3, h4]
          · simp [h0, h1, h2, h3]
        · simp [h0, h1, h2]
      · simp [h0, h1]
    · simp [h0]
  · have hlt : r.length < 8 + len := by omega
    simp [hlen, decodeOutcome, decodeSession, hlt]

/-- The exchange: the request is sent, then the response is decoded; a send that fails ends it. -/
theorem exchange_eq (s : State) (cls id : Byte) (p : Bytes) (ecls eid : Byte) (len : Nat) :
    exchange s cls id p ecls eid len =
      if s.cfg.maxFrame < 8 + p.length then (.encodeOverflow, s)
      else if s.env.draw.accepts < 8 + p.length then
        (.transmitFailed,
          { s with
            fb := s.fb.writeRange 0 (frameBytes cls id p)
            env := (tWrite s.env (frameBytes cls id p)).2 })
      else
        decodeFrame
          { s with
            fb := s.fb.writeRange 0 (frameBytes cls id p)
            env := (tWrite s.env (frameBytes cls id p)).2 } ecls eid len := by
  unfold exchange
  rw [sendFrame_eq]
  by_cases h1 : s.cfg.maxFrame < 8 + p.length
  · simp [h1]
  · by_cases h2 : s.env.draw.accepts < 8 + p.length <;> simp [h1, h2]

end Sys2Proof.Machine
end

