-- ==== Sys2Proof/Laws/Commands.lean ====
section
/-! SUPPORT. What each command does once accepted, in one equation per path, and the frame of every row of the opcode table
(`exec_frame`), so that later proofs never unfold a command. -/

namespace Sys2Proof.Machine

/-! ## The outcome table -/

theorem decodeOutcome_eq_shortRead_iff (cls id : Byte) (len : Nat) (r : Bytes) :
    decodeOutcome cls id len r = .shortRead ↔ r.length < 8 + len := by
  unfold decodeOutcome
  by_cases h : r.length < 8 + len
  · simp [h]
  · rw [if_neg h]
    constructor
    · intro he; split_ifs at he
    · intro he; exact absurd he h

/-- Unless the read came back short, the bytes are as many as were asked for. -/
theorem length_of_not_shortRead {cls id : Byte} {len : Nat} {r : Bytes} (h : decodeOutcome cls id len r ≠ .shortRead) :
    8 + len ≤ r.length := by
  rw [Ne, decodeOutcome_eq_shortRead_iff] at h; omega

theorem decodeOutcome_mem (cls id : Byte) (len : Nat) (r : Bytes) :
    decodeOutcome cls id len r ∈
      [Status.success, .shortRead, .syncMismatch, .classMismatch, .idMismatch, .lengthMismatch, .checksumMismatch] := by
  unfold decodeOutcome; split_ifs <;> simp

/-- The payload that stands in FB is the payload of the bytes read. -/
theorem readRange_payload (m : Memory) (r : Bytes) (len : Nat) (h : 8 + len ≤ r.length) :
    (m.writeRange 0 r).readRange headerSize len = (r.drop 6).take len := by
  have := Memory.readRange_writeRange_part m 0 6 len r (by omega)
  rwa [Nat.zero_add] at this

/-! ## Acceptance -/

theorem whenMode_same {m : Mode} {s : State} (body : State → State) (h : s.mode = m) : whenMode m body s = body s := by
  simp [whenMode, h]

theorem whenMode_other {m : Mode} {s : State} (body : State → State) (h : s.mode ≠ m) :
    whenMode m body s = { s with status := .wrongMode } := by
  simp [whenMode, h, State.finish]

theorem whenOperand_ok {ok : State → Bool} {s : State} (body : State → State) (h : ok s = true) :
    whenOperand ok body s = body s := by simp [whenOperand, h]

theorem whenOperand_bad {ok : State → Bool} {s : State} (body : State → State) (h : ok s = false) :
    whenOperand ok body s = { s with status := .badOperand } := by simp [whenOperand, h, State.finish]

theorem expectationFits_iff (s : State) : s.expectationFits = true ↔ 8 + s.opnd.expLen.toNat ≤ s.cfg.maxFrame := by
  simp [State.expectationFits, State.expLength]

theorem formatBitLegal_iff (s : State) : s.formatBitLegal = true ↔ s.opnd.argFmt.toNat ≤ 7 := by
  unfold State.formatBitLegal State.formatBit; exact decide_eq_true_iff

/-! ## Copies to POUT -/

/-- What one byte of POUT reads after a copy. -/
theorem Memory.read_copyOut (pout : Memory) (s : Bytes) (k : Nat) :
    (pout.copyOut s).read k = if k < s.length ∧ k < 65535 then s.getD k 0 else pout.read k := by
  unfold Memory.copyOut hostSpaceSize
  rw [Memory.read_writeRange, List.length_take]
  by_cases h : k < s.length ∧ k < 65535
  · rw [if_pos (by omega), if_pos h]; simp [List.getD, h.2]
  · rw [if_neg (by omega), if_neg h]

/-- A copy that POUT has room for. -/
theorem Memory.copyOut_of_le (pout : Memory) (s : Bytes) (h : s.length ≤ 65535) :
    pout.copyOut s = pout.writeRange 0 s := by
  unfold Memory.copyOut hostSpaceSize; rw [List.take_of_length_le h]

@[simp] theorem Memory.copyOut_nil (pout : Memory) : pout.copyOut [] = pout := by
  simp [Memory.copyOut, Memory.writeRange]

theorem Memory.wf_copyOut (pout : Memory) (s : Bytes) (h : pout.wf = true) : (pout.copyOut s).wf = true :=
  Memory.wf_writeRange _ _ _ h

/-- No copy writes outside POUT (R65). -/
theorem Memory.below_copyOut (pout : Memory) (s : Bytes) (h : pout.below 65535 = true) :
    (pout.copyOut s).below 65535 = true :=
  Memory.below_writeRange _ _ _ _ h (by rw [List.length_take]; unfold hostSpaceSize; omega)

/-- A received payload always fits POUT: its length comes from a 16-bit register. -/
theorem copyOut_payload (pout : Memory) (len : U16) (s : Bytes) :
    pout.copyOut (s.take len.toNat) = pout.writeRange 0 (s.take len.toNat) :=
  Memory.copyOut_of_le _ _ (by rw [List.length_take]; have := len.isLt; omega)

/-! ## DECODE and the exchanges -/

/-- DECODE after acceptance (R134, R141). -/
theorem decodeCommandBody_eq (s : State) :
    decodeCommandBody s =
      let len := s.opnd.expLen.toNat
      let r := responseBytes s.env s len
      let o := decodeOutcome s.opnd.expClass s.opnd.expId len r
      { s with
        status := o
        env := responseEnv s.env s len
        fb := s.fb.writeRange 0 r
        session := decodeSession s.opnd.expClass s.opnd.expId len r
        pout := if o = .success then s.pout.writeRange 0 ((r.drop 6).take len) else s.pout
        resLen := if o = .success then len else s.resLen } := by
  unfold decodeCommandBody
  rw [decodeFrame_eq]
  dsimp only [State.expLength]
  generalize responseBytes s.env s s.opnd.expLen.toNat = r
  have hl := @length_of_not_shortRead s.opnd.expClass s.opnd.expId s.opnd.expLen.toNat r
  generalize decodeOutcome s.opnd.expClass s.opnd.expId s.opnd.expLen.toNat r = o at hl ⊢
  cases o <;> simp [State.finish, deliverPayload, State.framePayload]
  rw [readRange_payload _ _ _ (hl (by simp)), copyOut_payload]

/-- The state after an exchange that reached its response (R170). -/
def exchangedState (s : State) (cls id : Byte) (p : Bytes) (ecls eid : Byte) (len : Nat) : State :=
  let sent := (tWrite s.env (frameBytes cls id p)).2
  let r := responseBytes sent s len
  { s with
    env := responseEnv sent s len
    fb := (s.fb.writeRange 0 (frameBytes cls id p)).writeRange 0 r
    session := decodeSession ecls eid len r }

theorem exchange_of_overflow {s : State} {p : Bytes} (cls id ecls eid : Byte) (len : Nat)
    (h : s.cfg.maxFrame < 8 + p.length) : exchange s cls id p ecls eid len = (.encodeOverflow, s) := by
  rw [exchange_eq, if_pos h]

theorem exchange_of_partial {s : State} {p : Bytes} (cls id ecls eid : Byte) (len : Nat)
    (h : ¬s.cfg.maxFrame < 8 + p.length) (ha : s.env.draw.accepts < 8 + p.length) :
    exchange s cls id p ecls eid len =
      (.transmitFailed,
        { s with
          fb := s.fb.writeRange 0 (frameBytes cls id p)
          env := (tWrite s.env (frameBytes cls id p)).2 }) := by
  rw [exchange_eq, if_neg h, if_pos ha]

theorem exchange_of_sent {s : State} {p : Bytes} (cls id ecls eid : Byte) (len : Nat)
    (h : ¬s.cfg.maxFrame < 8 + p.length) (ha : ¬s.env.draw.accepts < 8 + p.length) :
    exchange s cls id p ecls eid len =
      (decodeOutcome ecls eid len (responseBytes (tWrite s.env (frameBytes cls id p)).2 s len),
        exchangedState s cls id p ecls eid len) := by
  rw [exchange_eq, if_neg h, if_neg ha, decodeFrame_eq]; rfl

/-- REQRESP when the whole request is sent (R170). -/
theorem reqrespCommand_of_sent (s : State) (h : ¬s.cfg.maxFrame < 8 + s.opnd.argLen.toNat)
    (ha : ¬s.env.draw.accepts < 8 + s.opnd.argLen.toNat) :
    reqrespCommand s =
      let p := spaceBytes s.pin 0 s.opnd.argLen.toNat
      let len := s.opnd.expLen.toNat
      let r := responseBytes (tWrite s.env (frameBytes s.opnd.argClass s.opnd.argId p)).2 s len
      let o := decodeOutcome s.opnd.expClass s.opnd.expId len r
      { exchangedState s s.opnd.argClass s.opnd.argId p s.opnd.expClass s.opnd.expId len with
        status := o
        pout := if o = .success then s.pout.writeRange 0 ((r.drop 6).take len) else s.pout
        resLen := if o = .success then len else s.resLen } := by
  unfold reqrespCommand
  rw [exchange_of_sent _ _ _ _ _ (by simpa using h) (by simpa using ha), argPayload_eq]
  dsimp only [State.expLength]
  generalize hr : responseBytes (tWrite s.env (frameBytes s.opnd.argClass s.opnd.argId
    (spaceBytes s.pin 0 s.opnd.argLen.toNat))).2 s s.opnd.expLen.toNat = r
  have hl := @length_of_not_shortRead s.opnd.expClass s.opnd.expId s.opnd.expLen.toNat r
  generalize decodeOutcome s.opnd.expClass s.opnd.expId s.opnd.expLen.toNat r = o at hl ⊢
  cases o <;> simp [State.finish, deliverPayload, State.framePayload, exchangedState]
  rw [hr, readRange_payload _ _ _ (hl (by simp)), copyOut_payload]

/-- GETFIX when the whole request is sent (R171). -/
theorem getfixCommand_of_sent (s : State) (ha : ¬s.env.draw.accepts < 8) :
    getfixCommand s =
      let r := responseBytes (tWrite s.env (frameBytes navClass navId [])).2 s navLen
      let o := decodeOutcome navClass navId navLen r
      { exchangedState s navClass navId [] navClass navId navLen with
        status := o
        fix := if o = .success then fixOfPayload ((r.drop 6).take navLen) else s.fix } := by
  have hmax := s.cfg.maxFrame_ge
  unfold getfixCommand
  rw [exchange_of_sent _ _ _ _ _ (by simp; omega) (by simpa using ha)]
  dsimp only
  generalize hr : responseBytes (tWrite s.env (frameBytes navClass navId [])).2 s navLen = r
  have hl := @length_of_not_shortRead navClass navId navLen r
  generalize decodeOutcome navClass navId navLen r = o at hl ⊢
  cases o <;> simp [State.finish, State.framePayload, exchangedState]
  rw [hr, readRange_payload _ _ _ (hl (by simp))]

theorem frameBytes_setFormat (s : State) (r : Bytes) :
    frameBytes s.cfg.cfgClass s.cfg.cfgId (setFormat ((r.drop 6).take cfgLen) s.formatBit s.opnd.argOn) =
      setfmtWriteFrame s r := rfl

theorem length_setfmtWriteFrame (s : State) (r : Bytes) (h : 28 ≤ r.length) : (setfmtWriteFrame s r).length = 28 := by
  simp [setfmtWriteFrame]; omega

/-- SETFMT when the whole query is sent (R173). -/
theorem setfmtCommand_of_sent (s : State) (ha : ¬s.env.draw.accepts < 8) :
    setfmtCommand s =
      let sent := (tWrite s.env (frameBytes s.cfg.cfgClass s.cfg.cfgId [])).2
      let r := responseBytes sent s cfgLen
      let o := decodeOutcome s.cfg.cfgClass s.cfg.cfgId cfgLen r
      let read := responseEnv sent s cfgLen
      let x := exchangedState s s.cfg.cfgClass s.cfg.cfgId [] s.cfg.cfgClass s.cfg.cfgId cfgLen
      if o = .success then
        { x with
          status := if read.draw.accepts < 28 then .transmitFailed else .success
          fb := x.fb.writeRange 0 (setfmtWriteFrame s r)
          env := (tWrite read (setfmtWriteFrame s r)).2 }
      else { x with status := o } := by
  have hmax := s.cfg.maxFrame_ge
  unfold setfmtCommand
  rw [exchange_of_sent _ _ _ _ _ (by simp; omega) (by simpa using ha)]
  dsimp only
  generalize hr : responseBytes (tWrite s.env (frameBytes s.cfg.cfgClass s.cfg.cfgId [])).2 s cfgLen = r
  have hl := @length_of_not_shortRead s.cfg.cfgClass s.cfg.cfgId cfgLen r
  generalize decodeOutcome s.cfg.cfgClass s.cfg.cfgId cfgLen r = o at hl ⊢
  cases o <;> simp only [reduceCtorEq, if_false, if_true, State.finish]
  have hl : 8 + 20 ≤ r.length := hl (by simp)
  have hp : (exchangedState s s.cfg.cfgClass s.cfg.cfgId [] s.cfg.cfgClass s.cfg.cfgId cfgLen).framePayload cfgLen =
      (r.drop 6).take cfgLen := by
    simp only [exchangedState, State.framePayload, hr]
    rw [readRange_payload _ _ cfgLen hl]
  have hlen : (setFormat ((r.drop 6).take cfgLen) s.formatBit s.opnd.argOn).length = 20 := by
    rw [length_setFormat]; simp [cfgLen]; omega
  rw [hp, sendFrame_eq, if_neg (by rw [hlen]; simp [exchangedState]; omega), frameBytes_setFormat, hlen]
  simp [exchangedState]
  rfl

/-! ## POLL -/

/-- A poll that finds no byte and does not flush (R150, R152). -/
theorem pollCommand_of_empty (s : State) (h : s.env.rxq = []) (hf : s.lbCursor = 0 ∨ s.idleCount = 0) :
    pollCommand s =
      { s with
        env := (tBuffered s.env).2, idleCount := min (s.idleCount + 1) 2, event := .none, status := .success } := by
  have hd : ({ s with env := (tBuffered s.env).2 } : State).flushDue = false := by
    simp [State.flushDue, idleTick, idleThreshold]; omega
  simp only [pollCommand, tBuffered_count, h, List.length_nil, if_true, emptyPoll, hd]
  rfl

/-- A poll that flushes (R150, R153, R154). -/
theorem pollCommand_of_flush (s : State) (h : s.env.rxq = []) (hc : 0 < s.lbCursor) (hi : 1 ≤ s.idleCount) :
    pollCommand s =
      { (if s.lb.read 0 = 0x24 ∧ s.lb.read (s.lbCursor - 1) = 0x0A then
          { s with
            cb := s.cb.writeRange 0 (spaceBytes s.lb 0 s.lbCursor), cbLen := s.lbCursor, event := .published }
        else { s with event := .dropped }) with
        env := (tBuffered s.env).2, idleCount := 0, lbCursor := 0, status := .success } := by
  have hd : ({ s with env := (tBuffered s.env).2 } : State).flushDue = true := by
    simp [State.flushDue, idleTick, idleThreshold]; omega
  have hm : ({ s with env := (tBuffered s.env).2 } : State).delimitersMatch =
      decide (s.lb.read 0 = 0x24 ∧ s.lb.read (s.lbCursor - 1) = 0x0A) := by
    simp only [State.delimitersMatch, dollar, newline, Bool.decide_and]; rfl
  simp only [pollCommand, tBuffered_count, h, List.length_nil, if_true, emptyPoll, hd]
  unfold flushLine
  rw [hm]
  simp only [Memory.readRange_eq_spaceBytes]
  by_cases hh : s.lb.read 0 = 0x24 ∧ s.lb.read (s.lbCursor - 1) = 0x0A
  · rw [if_pos hh, if_pos (decide_eq_true hh)]; rfl
  · rw [if_neg hh, if_neg (by simpa using hh)]; rfl

/-- A poll that finds bytes that fit (R150, R77). -/
theorem pollCommand_of_bytes (s : State) (h : 0 < s.env.rxq.length)
    (hf : s.lbCursor + s.env.rxq.length ≤ s.cfg.lineCapacity) :
    pollCommand s =
      { s with
        env := (tReadExact (tBuffered s.env).2 s.env.rxq.length s.cfg.readTimeoutMs).2
        lb := s.lb.writeRange s.lbCursor s.env.rxq
        lbCursor := s.lbCursor + s.env.rxq.length
        idleCount := 0
        event := .accumulated
        status := .success } := by
  have hn : ¬(tBuffered s.env).1 = 0 := by simp; exact List.ne_nil_of_length_pos h
  have hl : ({ s with env := (tBuffered s.env).2 } : State).lineFits s.env.rxq.length = true := by
    simp [State.lineFits, hf]
  unfold pollCommand
  dsimp only
  rw [if_neg hn, tBuffered_count, fullPoll, if_pos hl]
  dsimp only [State.finish]
  rw [(tReadExact_after_tBuffered s.env _).1]

/-- A poll that finds more bytes than fit (R156). -/
theorem pollCommand_of_excess (s : State) (h : 0 < s.env.rxq.length)
    (hf : s.cfg.lineCapacity < s.lbCursor + s.env.rxq.length) :
    pollCommand s =
      { s with env := (tBuffered s.env).2, idleCount := 0, status := .capacityExceeded } := by
  have hn : ¬(tBuffered s.env).1 = 0 := by simp; exact List.ne_nil_of_length_pos h
  have hl : ({ s with env := (tBuffered s.env).2 } : State).lineFits s.env.rxq.length = false := by
    simp [State.lineFits, hf]
  unfold pollCommand
  dsimp only
  rw [if_neg hn, tBuffered_count, fullPoll, hl]
  rfl

/-! ## The frame of every row -/

/-- Which components each row of the opcode table may change, and nothing else: everything not named is unchanged
(R22, R60, R69, R194). -/
theorem exec_frame (i : Instr) (s t : State) (h : exec i s = .next t) :
    match i with
    | .cksum => t = { s with status := t.status, resCkA := t.resCkA, resCkB := t.resCkB }
    | .encode => t = { s with status := t.status, fb := t.fb, resLen := t.resLen, frameReady := t.frameReady }
    | .decode =>
      t = { s with
        status := t.status, fb := t.fb, session := t.session, env := t.env, pout := t.pout, resLen := t.resLen }
    | .reqresp =>
      t = { s with
        status := t.status, fb := t.fb, session := t.session, env := t.env, pout := t.pout, resLen := t.resLen }
    | .getfix => t = { s with status := t.status, fb := t.fb, session := t.session, env := t.env, fix := t.fix }
    | .setfmt => t = { s with status := t.status, fb := t.fb, session := t.session, env := t.env }
    | .applyrst => t = { s with status := t.status, fb := t.fb, env := t.env }
    | .poll =>
      t = { s with
        status := t.status, lb := t.lb, cb := t.cb, cbLen := t.cbLen, lbCursor := t.lbCursor
        idleCount := t.idleCount, event := t.event, env := t.env }
    | .rdsent => t = { s with status := t.status, pout := t.pout, resLen := t.resLen, cbLen := t.cbLen }
    | .lcreset => t = { s with status := t.status, lbCursor := t.lbCursor, idleCount := t.idleCount }
    | .illegal _ => t = { s with status := t.status }
    | .ubxFrame _ _ _ _ _ => t = { s with env := t.env }
    | .navPollFrame => t = { s with env := t.env }
    | .navResponseFrame _ _ _ => t = { s with env := t.env }
    | .cfgQueryFrame _ _ _ _ => t = { s with env := t.env }
    | .cfgWriteFrame _ _ _ _ _ => t = { s with env := t.env }
    | .rstFrame _ _ _ _ _ _ => t = { s with env := t.env }
    | .sentence _ => t = { s with env := t.env } := by
  have hmax := s.cfg.maxFrame_ge
  have same : ∀ {m : Mode} {body : State → State} {t' : State}, s.mode = m →
      (Host.Outcome.next (whenMode m body s) : Host.Outcome State Fault Refusal) = .next t' → t' = body s := by
    intro m body t' hm he; injection he with he; rw [← he, whenMode_same _ hm]
  have other : ∀ {m : Mode} {body : State → State} {t' : State}, s.mode ≠ m →
      (Host.Outcome.next (whenMode m body s) : Host.Outcome State Fault Refusal) = .next t' →
      t' = { s with status := .wrongMode } := by
    intro m body t' hm he; injection he with he; rw [← he, whenMode_other _ hm]
  cases i <;> dsimp only <;> simp only [exec] at h
  · injection h with h; subst h; rfl
  · injection h with h; unfold encodeCommand at h; rw [encodeFrame_eq] at h; subst h
    by_cases hh : s.cfg.maxFrame < 8 + s.argPayload.length
    · simp only [hh, if_true, State.finish]
    · simp only [hh, if_false, State.finish]
  · by_cases hm : s.mode = .framed
    · rw [same hm h]
      by_cases hf : s.expectationFits = true
      · rw [whenOperand_ok _ hf, decodeCommandBody_eq]
      · rw [whenOperand_bad _ (by simpa using hf)]
    · rw [other hm h]
  · by_cases hm : s.mode = .framed
    · rw [same hm h]
      by_cases hf : s.expectationFits = true
      · rw [whenOperand_ok _ hf]
        by_cases hover : s.cfg.maxFrame < 8 + s.opnd.argLen.toNat
        · unfold reqrespCommand; rw [exchange_of_overflow _ _ _ _ _ (by simpa using hover)]; rfl
        by_cases ha : s.env.draw.accepts < 8 + s.opnd.argLen.toNat
        · unfold reqrespCommand
          rw [exchange_of_partial _ _ _ _ _ (by simpa using hover) (by simpa using ha)]; rfl
        rw [reqrespCommand_of_sent _ hover ha]; rfl
      · rw [whenOperand_bad _ (by simpa using hf)]
    · rw [other hm h]
  · by_cases hm : s.mode = .framed
    · rw [same hm h]
      by_cases ha : s.env.draw.accepts < 8
      · unfold getfixCommand
        rw [exchange_of_partial _ _ _ _ _ (by simp; omega) (by simpa using ha)]; rfl
      rw [getfixCommand_of_sent _ ha]; rfl
    · rw [other hm h]
  · by_cases hm : s.mode = .framed
    · rw [same hm h]
      by_cases hf : s.formatBitLegal = true
      · rw [whenOperand_ok _ hf]
        by_cases ha : s.env.draw.accepts < 8
        · unfold setfmtCommand
          rw [exchange_of_partial _ _ _ _ _ (by simp; omega) (by simpa using ha)]; rfl
        obtain ⟨st, f, se, e, he⟩ : ∃ st f se e,
            setfmtCommand s = { s with status := st, fb := f, session := se, env := e } := by
          rw [setfmtCommand_of_sent _ ha]
          dsimp only
          by_cases ho : decodeOutcome s.cfg.cfgClass s.cfg.cfgId cfgLen
              (responseBytes (tWrite s.env (frameBytes s.cfg.cfgClass s.cfg.cfgId [])).2 s cfgLen) = .success
          · rw [if_pos ho]; exact ⟨_, _, _, _, rfl⟩
          · rw [if_neg ho]; exact ⟨_, _, _, _, rfl⟩
        rw [he]
      · rw [whenOperand_bad _ (by simpa using hf)]
    · rw [other hm h]
  · by_cases hm : s.mode = .framed
    · rw [same hm h]
      simp only [applyrstCommand, State.finish]
      rw [sendFrame_eq, if_neg (by simp [State.resetPayload]; omega)]
    · rw [other hm h]
  · by_cases hm : s.mode = .freerun
    · rw [same hm h]
      by_cases h0 : s.env.rxq = []
      · by_cases h1 : s.lbCursor = 0 ∨ s.idleCount = 0
        · rw [pollCommand_of_empty _ h0 h1]
        · rw [pollCommand_of_flush _ h0 (by omega) (by omega)]; split_ifs <;> rfl
      · have hp : 0 < s.env.rxq.length := List.length_pos_of_ne_nil h0
        by_cases h1 : s.lbCursor + s.env.rxq.length ≤ s.cfg.lineCapacity
        · rw [pollCommand_of_bytes _ hp h1]
        · rw [pollCommand_of_excess _ hp (by omega)]
    · rw [other hm h]
  · by_cases hm : s.mode = .freerun
    · rw [same hm h]; rfl
    · rw [other hm h]
  · by_cases hm : s.mode = .freerun
    · rw [same hm h]; rfl
    · rw [other hm h]
  all_goals (injection h with h; subst h; rfl)

end Sys2Proof.Machine
end

