-- ==== Sys2Proof/Laws/PerInstr.lean ====
section
/-! SUPPORT. Statements made for every constructor of Instr. The family EncodedShape: what the words of a well-formed
instruction look like (R90, R100, R101): one byte in OPC, or at least two bytes on the wire that begin with SYNC1 or `$`
and are no longer than 65543 when they are a frame. -/

namespace Sys2Proof.Laws.EncodedShape

/-- The shape of the words of `i`. -/
def Statement (i : Instr) : Prop :=
  ∀ cfg : Config, i.wellFormed cfg = true →
    ((encode i).1 = .command → (encode i).2.length = 1) ∧
    ((encode i).1 = .wire →
      2 ≤ (encode i).2.length ∧
        ((encode i).2.head? = some dollar ∨ (encode i).2.head? = some sync1 ∧ (encode i).2.length ≤ 65543))

/-- The shape of a frame (R90, R91). -/
theorem of_frame (cls id : Byte) (p : Bytes) (ckA ckB : Byte) (h : p.length ≤ 65535) :
    2 ≤ (frameWith cls id p ckA ckB).length ∧
      ((frameWith cls id p ckA ckB).head? = some dollar ∨
        (frameWith cls id p ckA ckB).head? = some sync1 ∧ (frameWith cls id p ckA ckB).length ≤ 65543) := by
  rw [Machine.length_frameWith]
  exact ⟨by omega, Or.inr ⟨rfl, by omega⟩⟩

theorem cksum : Statement .cksum := by simp [Statement, encode]
theorem encode : Statement .encode := by simp [Statement, Sys2Proof.encode]
theorem decode : Statement .decode := by simp [Statement, Sys2Proof.encode]
theorem reqresp : Statement .reqresp := by simp [Statement, Sys2Proof.encode]
theorem getfix : Statement .getfix := by simp [Statement, Sys2Proof.encode]
theorem setfmt : Statement .setfmt := by simp [Statement, Sys2Proof.encode]
theorem applyrst : Statement .applyrst := by simp [Statement, Sys2Proof.encode]
theorem poll : Statement .poll := by simp [Statement, Sys2Proof.encode]
theorem rdsent : Statement .rdsent := by simp [Statement, Sys2Proof.encode]
theorem lcreset : Statement .lcreset := by simp [Statement, Sys2Proof.encode]
theorem illegal (opc : Byte) : Statement (.illegal opc) := by simp [Statement, Sys2Proof.encode]
theorem ubxFrame (cls id : Byte) (payload : Bytes) (ckA ckB : Byte) :
    Statement (.ubxFrame cls id payload ckA ckB) := fun _ h => by
  simp only [Instr.wellFormed, Bool.and_eq_true, decide_eq_true_eq] at h
  exact ⟨fun hc => (by cases hc), fun _ => of_frame _ _ _ _ _ h.1⟩
theorem navPollFrame : Statement .navPollFrame := fun _ _ => by decide
theorem navResponseFrame (fix : PositionFix) (ckA ckB : Byte) : Statement (.navResponseFrame fix ckA ckB) := fun _ _ =>
  ⟨fun hc => (by cases hc), fun _ => of_frame _ _ _ _ _ (by simp [payloadOfFix, le32Bytes])⟩
theorem cfgQueryFrame (cls id ckA ckB : Byte) : Statement (.cfgQueryFrame cls id ckA ckB) := fun _ _ =>
  ⟨fun hc => (by cases hc), fun _ => of_frame _ _ _ _ _ (by simp)⟩
theorem cfgWriteFrame (cls id : Byte) (payload : Bytes) (ckA ckB : Byte) :
    Statement (.cfgWriteFrame cls id payload ckA ckB) := fun _ h => by
  simp only [Instr.wellFormed, isCfg, Bool.and_eq_true, beq_iff_eq] at h
  exact ⟨fun hc => (by cases hc), fun _ => of_frame _ _ _ _ _ (by omega)⟩
theorem rstFrame (cls id byte0 variant ckA ckB : Byte) : Statement (.rstFrame cls id byte0 variant ckA ckB) := fun _ _ =>
  ⟨fun hc => (by cases hc), fun _ => of_frame _ _ _ _ _ (by simp)⟩
theorem sentence (body : Bytes) : Statement (.sentence body) := fun _ _ => by
  simp [Sys2Proof.encode]

end Sys2Proof.Laws.EncodedShape
end

