-- ==== Sys2Proof/Laws/Step.lean ====
section
/-! SUPPORT. The step, move by move: what each move of the outside world makes of it, and which component of the state each
move leaves alone. -/

namespace Sys2Proof.Machine

theorem nextInput_cons {s : State} {input : Input} {rest : List Input} (h : s.host.inputs = input :: rest) :
    s.nextInput = input := by simp [State.nextInput, h]

theorem afterInput_cons {s : State} {input : Input} {rest : List Input} (h : s.host.inputs = input :: rest) :
    s.afterInput = { s with host := { s.host with inputs := rest } } := by simp [State.afterInput, h]

/-- Taking the next move touches the host's side only. -/
theorem afterInput_frame (s : State) : s.afterInput = { s with host := s.afterInput.host } := by
  unfold State.afterInput; split <;> rfl

/-- A step with a scripted move, in terms of that move. -/
theorem step_cons {s : State} {input : Input} {rest : List Input} (h : s.host.inputs = input :: rest) :
    step s =
      match fetchFrom input { s with host := { s.host with inputs := rest } } with
      | .run i t => exec i t
      | .done t => .next t := by
  show (match fetchFrom s.nextInput s.afterInput with
    | .run i t => exec i t
    | .done t => .next t) = _
  rw [nextInput_cons h, afterInput_cons h]

theorem fetchFrom_arrive_ok {s : State} {bytes : Bytes} {i : Instr} (h : decodeWire s.cfg bytes = .ok i) :
    fetchFrom (.arrive bytes) s = .run i s := by simp [fetchFrom, h]

theorem fetchFrom_arrive_error {s : State} {bytes : Bytes} {e : DecodeError} (h : decodeWire s.cfg bytes = .error e) :
    fetchFrom (.arrive bytes) s = .done (s.peerDelivers bytes) := by simp [fetchFrom, h]

/-- Every instruction answers a next state in every state (R190, R200). -/
theorem exec_completes (i : Instr) (s : State) : ∃ t, exec i s = .next t := by cases i <;> exact ⟨_, rfl⟩

theorem fetchFrom_idle (s : State) : fetchFrom .idle s = .done s := rfl

theorem fetchFrom_write (w : HostWrite) (s : State) : fetchFrom (.write w) s = .done (s.hostWrite w) := rfl

theorem fetchFrom_read (p : HostPort) (s : State) : fetchFrom (.read p) s = .done (s.hostRead p) := rfl

/-- A host write touches operand registers and the two host-owned spaces only. -/
theorem hostWrite_frame (s : State) (w : HostWrite) :
    s.hostWrite w =
      { s with opnd := (s.hostWrite w).opnd, pin := (s.hostWrite w).pin, pout := (s.hostWrite w).pout } := by
  cases w <;> rfl

/-- A host read touches the host's side only. -/
theorem hostRead_frame (s : State) (p : HostPort) : s.hostRead p = { s with host := (s.hostRead p).host } := rfl

/-! ## The transport calls a command makes, one list per path (R71, R230) -/

theorem sendPoints_eq (s : State) (cls id : Byte) (p : Bytes) :
    sendPoints s cls id p =
      if s.cfg.maxFrame < 8 + p.length then [] else [(tWrite s.env (frameBytes cls id p)).2] := by
  unfold sendPoints
  rw [encodeFrame_eq]
  by_cases h : s.cfg.maxFrame < 8 + p.length
  · simp [h]
  · have hr := Memory.readRange_writeRange_same s.fb 0 (frameBytes cls id p)
    rw [length_frameBytes] at hr
    rw [if_neg h, if_neg h]
    simp [transmit, hr]

theorem exchangePoints_eq (s : State) (cls id : Byte) (p : Bytes) (len : Nat) :
    exchangePoints s cls id p len =
      if s.cfg.maxFrame < 8 + p.length then []
      else if s.env.draw.accepts < 8 + p.length then [(tWrite s.env (frameBytes cls id p)).2]
      else [(tWrite s.env (frameBytes cls id p)).2, responseEnv (tWrite s.env (frameBytes cls id p)).2 s len] := by
  unfold exchangePoints
  rw [sendPoints_eq, sendFrame_eq]
  by_cases h : s.cfg.maxFrame < 8 + p.length
  · simp [h]
  · by_cases ha : s.env.draw.accepts < 8 + p.length
    · simp [h, ha]
    · simp [h, ha, receive, responseEnv]

/-! ## What a command copies to POUT, and how much of it a reset leaves there (R76, R157, R230) -/

theorem decodeFrame_pout (s : State) (cls id : Byte) (len : Nat) : (decodeFrame s cls id len).2.pout = s.pout := by
  simp only [decodeFrame]
  split
  · rfl
  · split <;> rfl

theorem sendFrame_pout (s : State) (cls id : Byte) (p : Bytes) : (sendFrame s cls id p).2.pout = s.pout := by
  unfold sendFrame encodeFrame
  split_ifs <;> rfl

theorem exchange_pout (s : State) (cls id ecls eid : Byte) (p : Bytes) (len : Nat) :
    (exchange s cls id p ecls eid len).2.pout = s.pout := by
  have h := sendFrame_pout s cls id p
  unfold exchange
  split
  · rename_i t heq; rw [heq] at h; rw [decodeFrame_pout]; exact h
  · rename_i heq; rw [heq] at h; exact h

/-- The ending both copying exchanges share. -/
theorem delivered_pout (ended : Status × State) (len : Nat) :
    (match ended with
      | (.success, t) => (deliverPayload t len).finish .success
      | (failure, t) => t.finish failure).pout =
      ended.2.pout.copyOut (deliveredBytes ended len) := by
  obtain ⟨st, t⟩ := ended
  cases st <;> rfl

/-- What every instruction does to POUT. -/
theorem exec_pout (i : Instr) (s t : State) (h : exec i s = .next t) :
    t.pout = s.pout.copyOut (copiedBytes i s) := by
  cases i <;> simp only [exec] at h <;> injection h with h <;> subst h <;> simp only [copiedBytes]
  · rfl
  · unfold encodeCommand encodeFrame; split_ifs <;> rfl
  · unfold whenMode whenOperand
    split_ifs with h1 h2 h3 h3 h3
    · exact (delivered_pout _ _).trans (by rw [decodeFrame_pout])
    all_goals first | rfl | tauto
  · unfold whenMode whenOperand
    split_ifs with h1 h2 h3 h3 h3
    · exact (delivered_pout _ _).trans (by rw [exchange_pout])
    all_goals first | rfl | tauto
  · unfold whenMode
    split_ifs
    · have := exchange_pout s navClass navId navClass navId [] navLen
      unfold getfixCommand
      split <;> (rename_i heq; rw [heq] at this; exact this)
    · rfl
  · unfold whenMode whenOperand
    split_ifs
    · have := exchange_pout s s.cfg.cfgClass s.cfg.cfgId s.cfg.cfgClass s.cfg.cfgId [] cfgLen
      unfold setfmtCommand
      split <;> (rename_i heq; rw [heq] at this; simp only [State.finish_pout, sendFrame_pout]; exact this)
    all_goals rfl
  · unfold whenMode
    split_ifs
    · simp [applyrstCommand, sendFrame_pout]
    · rfl
  · unfold whenMode
    split_ifs
    · unfold pollCommand emptyPoll fullPoll flushLine
      dsimp only
      split_ifs <;> rfl
    · rfl
  · unfold whenMode
    split_ifs
    all_goals rfl
  · unfold whenMode lcresetCommand
    split_ifs <;> rfl
  all_goals rfl

/-- POUT after a reset in the middle of a command: a beginning of what the completed command leaves. -/
theorem copiedAfter_read (i : Instr) (s t : State) (calls copied k : Nat) (h : exec i s = .next t) :
    (copiedAfter i s calls copied).read k =
      if (transportPoints i s).length ≤ calls ∧ k < copied then t.pout.read k else s.pout.read k := by
  rw [exec_pout i s t h]
  unfold copiedAfter
  by_cases hc : (transportPoints i s).length ≤ calls
  · rw [if_pos hc, Memory.read_copyOut, Memory.read_copyOut, List.length_take]
    by_cases hk : k < copied
    · simp only [hc, hk, true_and, if_true, lt_inf_iff]
      split_ifs <;> simp [List.getD, hk]
    · simp only [hk, and_false, if_false]
      rw [if_neg (by omega)]
  · rw [if_neg hc, if_neg (by tauto)]

end Sys2Proof.Machine
end

