-- ==== Sys2Proof/Tests/Slice0.lean ====
section
/-! SUPPORT. The model's own tests: ill-formed terms, decoding of words written out from 30_encoding.md, one step of each
row with results from 95_test_vectors.md or from the rule named, and for every statement that has hypotheses a concrete
state that meets them. -/

namespace Sys2Proof.Tests

open Sys2Proof Sys2Proof.Machine

/-! ## Small states -/

/-- A transport that accepts everything while nothing arrives. -/
def quiet : Draw := { accepts := 64, waits := [], after := [] }

/-- A transport that accepts `n` bytes. -/
def accepting (n : Nat) : Draw := { accepts := n, waits := [], after := [] }

/-- These bytes arrive while the call waits. -/
def bringing (bytes : Bytes) : Draw := { accepts := 64, waits := bytes, after := [] }

/-- A FRAMED instance. -/
def framed (o : Operands) (rxq : Bytes) (draws : List Draw) : State :=
  { State.reset with opnd := o, env := { rxq := rxq, tx := [], draws := draws, drawCount := 0 } }

/-- A FREERUN instance: what LB and CB hold, the counter, and RXQ. -/
def collecting (lb cb : Bytes) (idle : Nat) (rxq : Bytes) : State :=
  { State.reset with
    mode := .freerun
    lb := Memory.writeRange [] 0 lb
    lbCursor := lb.length
    idleCount := idle
    cb := Memory.writeRange [] 0 cb
    cbLen := cb.length
    env := { rxq := rxq, tx := [], draws := [quiet, quiet, quiet, quiet], drawCount := 0 } }

/-- The expectation of DECODE and REQRESP. -/
def expecting (cls id : Byte) (len : U16) : Operands :=
  { Operands.zero with expClass := cls, expId := id, expLen := len }

/-- A request with an expectation. -/
def requesting (cls id : Byte) (len : U16) (ecls eid : Byte) (elen : U16) : Operands :=
  { Operands.zero with
    argClass := cls, argId := id, argLen := len, expClass := ecls, expId := eid, expLen := elen }

/-- The operands of SETFMT. -/
def formatting (bit : Byte) (on : Bool) : Operands := { Operands.zero with argFmt := bit, argOn := on }

/-- A state whose next moves are these. -/
def facing (s : State) (inputs : List Input) : State := { s with host := { s.host with inputs := inputs } }

/-- The next state, if there is one. -/
def nextOf (o : Host.Outcome State Fault Refusal) : Option State :=
  match o with
  | .next t => some t
  | .fault _ => none
  | .refused _ => none

/-! The byte strings of 95_test_vectors.md part 1. -/

def navPoll : Bytes := [0xB5, 0x62, 0x01, 0x02, 0x00, 0x00, 0x03, 0x0A]
def navPayload : Bytes :=
  [0x40, 0xE2, 0x01, 0x00, 0xC0, 0x1B, 0xA6, 0xFB, 0x80, 0x74, 0xD2, 0x1A, 0x64, 0x00, 0x00, 0x00, 0x5F, 0x00, 0x00,
    0x00, 0xF4, 0x01, 0x00, 0x00, 0x20, 0x03, 0x00, 0x00]
def navResponse : Bytes := [0xB5, 0x62, 0x01, 0x02, 0x1C, 0x00] ++ navPayload ++ [0x79, 0xDC]
def cfgPoll : Bytes := [0xB5, 0x62, 0x06, 0x00, 0x00, 0x00, 0x06, 0x18]
def cfgPayload : Bytes :=
  [0x01, 0x00, 0x00, 0x00, 0xD0, 0x08, 0x00, 0x00, 0x80, 0x25, 0x00, 0x00, 0x07, 0x00, 0x03, 0x00, 0x00, 0x00, 0x00,
    0x00]
def cfgResponse : Bytes := [0xB5, 0x62, 0x06, 0x00, 0x14, 0x00] ++ cfgPayload ++ [0xA2, 0xB5]
def cfgBack : Bytes :=
  [0xB5, 0x62, 0x06, 0x00, 0x14, 0x00, 0x01, 0x00, 0x00, 0x00, 0xD0, 0x08, 0x00, 0x00, 0x80, 0x25, 0x00, 0x00, 0x07,
    0x00, 0x01, 0x00, 0x00, 0x00, 0x00, 0x00, 0xA0, 0xA9]
def f1 : Bytes := [0xB5, 0x62, 0x0A, 0x04, 0x01, 0x00, 0x5A, 0x69, 0x9F]

/-- The fix of vector S6. -/
def fixS6 : PositionFix :=
  { timeOfWeek := 123456, longitude := BitVec.ofInt 32 (-73000000), latitude := 450000000
    heightAboveEllipsoid := 100, heightAboveMeanSeaLevel := 95, horizontalAccuracyEstimate := 500
    verticalAccuracyEstimate := 800 }

/-! ## Ill-formed terms are refused, one for each check (R90 to R103) -/

theorem test_wf_illegal_lowest_command : (Instr.illegal 0x01).wellFormed Config.default = false := by decide
theorem test_wf_illegal_highest_command : (Instr.illegal 0x0A).wellFormed Config.default = false := by decide
theorem test_wf_illegal_zero : (Instr.illegal 0x00).wellFormed Config.default = true := by decide
theorem test_wf_illegal_first_above : (Instr.illegal 0x0B).wellFormed Config.default = true := by decide
theorem test_wf_payload_too_long (p : Bytes) (h : p.length = 65536) :
    (Instr.ubxFrame 0x0A 0x04 p 0 0).wellFormed Config.default = false := by
  simp [Instr.wellFormed, h]
theorem test_wf_frame_is_nav_poll :
    (Instr.ubxFrame 0x01 0x02 [] 0x03 0x0A).wellFormed Config.default = false := by decide
theorem test_wf_nav_poll_with_other_trailer :
    (Instr.ubxFrame 0x01 0x02 [] 0x03 0x0B).wellFormed Config.default = true := by decide
theorem test_wf_frame_is_nav_response :
    (Instr.ubxFrame 0x01 0x02 navPayload 0x79 0xDC).wellFormed Config.default = false := by decide
theorem test_wf_frame_is_cfg_query :
    (Instr.ubxFrame 0x06 0x00 [] 0x06 0x18).wellFormed Config.default = false := by decide
theorem test_wf_frame_is_cfg_write :
    (Instr.ubxFrame 0x06 0x00 cfgPayload 0xA2 0xB5).wellFormed Config.default = false := by decide
theorem test_wf_frame_is_rst :
    (Instr.ubxFrame 0x06 0x04 [0x00, 0x01] 0x0D 0x41).wellFormed Config.default = false := by decide
theorem test_wf_query_class : (Instr.cfgQueryFrame 0x07 0x00 0 0).wellFormed Config.default = false := by decide
theorem test_wf_query_id : (Instr.cfgQueryFrame 0x06 0x01 0 0).wellFormed Config.default = false := by decide
theorem test_wf_query_is_nav_poll :
    (Instr.cfgQueryFrame 0x01 0x02 0x03 0x0A).wellFormed { Config.default with cfgClass := 0x01, cfgId := 0x02 } =
      false := by decide
theorem test_wf_write_class :
    (Instr.cfgWriteFrame 0x07 0x00 cfgPayload 0 0).wellFormed Config.default = false := by decide
theorem test_wf_write_id :
    (Instr.cfgWriteFrame 0x06 0x01 cfgPayload 0 0).wellFormed Config.default = false := by decide
theorem test_wf_write_length : (Instr.cfgWriteFrame 0x06 0x00 [0x01] 0 0).wellFormed Config.default = false := by decide
theorem test_wf_rst_class : (Instr.rstFrame 0x05 0x04 0x00 0x01 0 0).wellFormed Config.default = false := by decide
theorem test_wf_rst_id : (Instr.rstFrame 0x06 0x05 0x00 0x01 0 0).wellFormed Config.default = false := by decide
theorem test_wf_rst_byte0 : (Instr.rstFrame 0x06 0x04 0x01 0x01 0 0).wellFormed Config.default = false := by decide

/-! ## Decoding of words written out from the encodings (R90, R97 to R103) -/

theorem test_decode_cksum : decode Config.default .command [0x01] = .ok .cksum := by decide
theorem test_decode_encode : decode Config.default .command [0x02] = .ok .encode := by decide
theorem test_decode_decode : decode Config.default .command [0x03] = .ok .decode := by decide
theorem test_decode_reqresp : decode Config.default .command [0x04] = .ok .reqresp := by decide
theorem test_decode_getfix : decode Config.default .command [0x05] = .ok .getfix := by decide
theorem test_decode_setfmt : decode Config.default .command [0x06] = .ok .setfmt := by decide
theorem test_decode_applyrst : decode Config.default .command [0x07] = .ok .applyrst := by decide
theorem test_decode_poll : decode Config.default .command [0x08] = .ok .poll := by decide
theorem test_decode_rdsent : decode Config.default .command [0x09] = .ok .rdsent := by decide
theorem test_decode_lcreset : decode Config.default .command [0x0A] = .ok .lcreset := by decide
theorem test_decode_illegal : decode Config.default .command [0xFF] = .ok (.illegal 0xFF) := by decide
theorem test_decode_ubx_frame : decode Config.default .wire f1 = .ok (.ubxFrame 0x0A 0x04 [0x5A] 0x69 0x9F) := by decide
theorem test_decode_nav_poll : decode Config.default .wire navPoll = .ok .navPollFrame := by decide
theorem test_decode_nav_response :
    decode Config.default .wire navResponse = .ok (.navResponseFrame fixS6 0x79 0xDC) := by decide
theorem test_decode_cfg_query :
    decode Config.default .wire cfgPoll = .ok (.cfgQueryFrame 0x06 0x00 0x06 0x18) := by decide
theorem test_decode_cfg_write :
    decode Config.default .wire cfgResponse = .ok (.cfgWriteFrame 0x06 0x00 cfgPayload 0xA2 0xB5) := by decide
theorem test_decode_rst :
    decode Config.default .wire [0xB5, 0x62, 0x06, 0x04, 0x02, 0x00, 0x00, 0x09, 0x15, 0x49] =
      .ok (.rstFrame 0x06 0x04 0x00 0x09 0x15 0x49) := by decide
theorem test_decode_sentence :
    decode Config.default .wire [0x24, 0x47, 0x50, 0x47, 0x47, 0x41, 0x2C, 0x31, 0x2A, 0x0A] =
      .ok (.sentence [0x47, 0x50, 0x47, 0x47, 0x41, 0x2C, 0x31, 0x2A]) := by decide
theorem test_decode_length_is_little_endian :
    decode Config.default .wire [0xB5, 0x62, 0x0A, 0x04, 0x00, 0x01, 0x5A, 0x69, 0x9F] = .error .badFrameLength := by decide
theorem test_decode_rejects_empty : decode Config.default .wire [] = .error .empty := by decide
theorem test_decode_rejects_start : decode Config.default .wire [0x00] = .error .unknownStart := by decide
theorem test_decode_rejects_second_sync :
    decode Config.default .wire [0xB5, 0x63, 0x0A, 0x04, 0x00, 0x00, 0x0E, 0x34] = .error .badSync := by decide
theorem test_decode_rejects_truncation :
    decode Config.default .wire [0xB5, 0x62, 0x0A] = .error .truncatedHeader := by decide
theorem test_decode_rejects_open_sentence :
    decode Config.default .wire [0x24, 0x47] = .error .noNewline := by decide

/-! ## One step of each command -/

/-- 95_test_vectors.md 3.1: `FF FF` tells the modulus apart. -/
theorem test_cksum_wraps :
    (nextOf (exec .cksum { framed { Operands.zero with argLen := 2 } [] [] with pin := [(0, 0xFF), (1, 0xFF)] })).map
      (fun t => (t.status, t.resCkA, t.resCkB)) = some (.success, 0xFE, 0xFD) := by decide

/-- S1: the empty sequence, in FREERUN mode. -/
theorem test_cksum_empty :
    (nextOf (exec .cksum (collecting [] [] 0 []))).map (fun t => (t.status, t.resCkA, t.resCkB)) =
      some (.success, 0x00, 0x00) := by decide

/-- S2: ENCODE of F1. -/
theorem test_encode_f1 :
    (nextOf (exec .encode { framed (requesting 0x0A 0x04 1 0 0 0) [] [] with pin := [(0, 0x5A)] })).map
      (fun t => (t.status, t.resLen, t.fb.readRange 0 9)) = some (.success, 9, f1) := by decide

/-- 3.2: 57 payload bytes do not fit MAX_FRAME = 64. -/
theorem test_encode_overflow :
    (nextOf (exec .encode (framed (requesting 0x02 0x15 57 0 0 0) [] []))).map (fun t => (t.status, t.resLen, t.fb)) =
      some (.encodeOverflow, 0, []) := by decide

/-- 3.3: a frame split between the queue and the wait. -/
theorem test_decode_split_frame :
    (nextOf (exec .decode (framed (expecting 0x0A 0x04 1) [0xB5, 0x62, 0x0A, 0x04]
      [bringing [0x01, 0x00, 0x5A, 0x69, 0x9F]]))).map (fun t => (t.status, t.resLen, t.pout, t.env.rxq)) =
      some (.success, 1, [(0, 0x5A)], []) := by decide

/-- S4: length before checksum. -/
theorem test_decode_length_precedence :
    (nextOf (exec .decode (framed (expecting 0x0A 0x04 1) [0xB5, 0x62, 0x0A, 0x04, 0x02, 0x00, 0x5A, 0x6A, 0xA2]
      [quiet]))).map (fun t => (t.status, t.pout)) = some (.lengthMismatch, []) := by decide

/-- 3.5: a full exchange whose expectation has another class and id. -/
theorem test_reqresp_other_class :
    (nextOf (exec .reqresp (framed (requesting 0x06 0x00 0 0x05 0x01 2) []
      [quiet, bringing [0xB5, 0x62, 0x05, 0x01, 0x02, 0x00, 0x06, 0x00, 0x0E, 0x37]]))).map
      (fun t => (t.status, t.resLen, t.pout.readRange 0 2, t.env.tx)) =
      some (.success, 2, [0x06, 0x00], cfgPoll) := by decide

/-- 3.5: five of eight bytes accepted. -/
theorem test_reqresp_partial_transmit :
    (nextOf (exec .reqresp (framed (requesting 0x01 0x02 0 0x01 0x02 28) [0x11] [accepting 5]))).map
      (fun t => (t.status, t.env.tx, t.env.rxq)) =
      some (.transmitFailed, [0xB5, 0x62, 0x01, 0x02, 0x00], [0x11]) := by decide

/-- S6: the position fix. -/
theorem test_getfix_s6 :
    (nextOf (exec .getfix (framed Operands.zero [] [quiet, bringing navResponse]))).map
      (fun t => (t.status, t.fix, t.env.tx, t.env.rxq, t.resLen)) =
      some (.success, fixS6, navPoll, [], 0) := by decide

/-- S6: the longitude is read as two's complement. -/
theorem test_getfix_signed : asI32 fixS6.longitude = -73000000 := by decide

/-- 3.5: bit 1 cleared, 03 to 01. -/
theorem test_setfmt_clears_bit :
    (nextOf (exec .setfmt (framed (formatting 1 false) [] [quiet, bringing cfgResponse, quiet]))).map
      (fun t => (t.status, t.env.tx)) = some (.success, cfgPoll ++ cfgBack) := by decide

/-- 3.5: the second write accepts five bytes. -/
theorem test_setfmt_second_write_fails :
    (nextOf (exec .setfmt (framed (formatting 1 false) [] [quiet, bringing cfgResponse, accepting 5]))).map
      (fun t => (t.status, t.env.tx)) = some (.transmitFailed, cfgPoll ++ [0xB5, 0x62, 0x06, 0x00, 0x14]) := by decide

/-- 3.5: ARG_RST = 0x09. -/
theorem test_applyrst_variant :
    (nextOf (exec .applyrst (framed { Operands.zero with argRst := 0x09 } [0x11] [quiet]))).map
      (fun t => (t.status, t.env.tx, t.env.rxq)) =
      some (.success, [0xB5, 0x62, 0x06, 0x04, 0x02, 0x00, 0x00, 0x09, 0x15, 0x49], [0x11]) := by decide

/-- 3.5: nine of ten bytes accepted. -/
theorem test_applyrst_partial :
    (nextOf (exec .applyrst (framed { Operands.zero with argRst := 0x01 } [] [accepting 9]))).map
      (fun t => (t.status, t.env.tx)) =
      some (.transmitFailed, [0xB5, 0x62, 0x06, 0x04, 0x02, 0x00, 0x00, 0x01, 0x0D]) := by decide

/-- 3.4: the second empty poll publishes. -/
theorem test_poll_publishes :
    (nextOf (exec .poll (collecting [0x24, 0x41, 0x0A] [] 1 []))).map
      (fun t => (t.event, t.lbCursor, t.idleCount, t.cbLen, t.cb.readRange 0 3)) =
      some (.published, 0, 0, 3, [0x24, 0x41, 0x0A]) := by decide

/-- 3.4: 33 bytes do not fit LINE_CAPACITY = 32. -/
theorem test_poll_capacity :
    (nextOf (exec .poll (collecting [] [] 2 (List.replicate 33 0x41)))).map
      (fun t => (t.status, t.idleCount, t.env.rxq.length, t.lb)) = some (.capacityExceeded, 0, 33, []) := by decide

/-- 3.4: the sentence is delivered. -/
theorem test_rdsent_delivers :
    (nextOf (exec .rdsent (collecting [] [0x24, 0x41, 0x0A] 0 []))).map
      (fun t => (t.status, t.resLen, t.cbLen, t.pout.readRange 0 3)) =
      some (.success, 3, 0, [0x24, 0x41, 0x0A]) := by decide

/-- 3.4: nothing pending. -/
theorem test_rdsent_nothing_pending :
    (nextOf (exec .rdsent (collecting [] [] 0 []))).map (fun t => (t.status, t.resLen, t.pout)) =
      some (.success, 0, []) := by decide

/-- 3.4: the pending sentence survives LCRESET. -/
theorem test_lcreset_keeps_sentence :
    (nextOf (exec .lcreset (collecting [0x24] [0x24, 0x0A] 1 [0x41]))).map
      (fun t => (t.status, t.lbCursor, t.idleCount, t.cbLen, t.env.rxq)) = some (.success, 0, 0, 2, [0x41]) := by decide

/-- R191. -/
theorem test_illegal_opcode :
    (nextOf (exec (.illegal 0x0B) (framed Operands.zero [] []))).map (fun t => t.status) = some .illegalOp := by decide

/-! ## One step of each wire row: its bytes reach the tail of RXQ (R69) -/

theorem test_arrival_ubx_frame :
    (nextOf (exec (.ubxFrame 0x0A 0x04 [0x5A] 0x69 0x9F) (framed Operands.zero [0x11] []))).map (fun t => t.env.rxq) =
      some (0x11 :: f1) := by decide
theorem test_arrival_nav_poll :
    (nextOf (exec .navPollFrame (framed Operands.zero [] []))).map (fun t => t.env.rxq) = some navPoll := by decide
theorem test_arrival_nav_response :
    (nextOf (exec (.navResponseFrame fixS6 0x79 0xDC) (framed Operands.zero [] []))).map (fun t => t.env.rxq) =
      some navResponse := by decide
theorem test_arrival_cfg_query :
    (nextOf (exec (.cfgQueryFrame 0x06 0x00 0x06 0x18) (framed Operands.zero [] []))).map (fun t => t.env.rxq) =
      some cfgPoll := by decide
theorem test_arrival_cfg_write :
    (nextOf (exec (.cfgWriteFrame 0x06 0x00 cfgPayload 0xA2 0xB5) (framed Operands.zero [] []))).map
      (fun t => t.env.rxq) = some cfgResponse := by decide
theorem test_arrival_rst :
    (nextOf (exec (.rstFrame 0x06 0x04 0x00 0x01 0x0D 0x41) (framed Operands.zero [] []))).map (fun t => t.env.rxq) =
      some [0xB5, 0x62, 0x06, 0x04, 0x02, 0x00, 0x00, 0x01, 0x0D, 0x41] := by decide
theorem test_arrival_sentence :
    (nextOf (exec (.sentence [0x47, 0x50]) (collecting [] [] 0 [0x11]))).map (fun t => t.env.rxq) =
      some [0x11, 0x24, 0x47, 0x50, 0x0A] := by decide

/-! ## The table's words and the step -/

theorem test_table_word_command : decodeTableWord 8 0x05 = some .getfix := by decide
theorem test_table_word_illegal : decodeTableWord 8 0x00 = some (.illegal 0x00) := by decide
theorem test_table_word_sentence : decodeTableWord 8 0x24 = some (.sentence []) := by decide
theorem test_table_word_frame :
    decodeTableWord 48 0x0001040A62B5 = some (.ubxFrame 0x0A 0x04 [0x00] 0x00 0x00) := by decide
theorem test_fetch_word_runs :
    (nextOf (step (State.reset.withFetchWord 8 0x0B))).map (fun t => (t.status, t.opnd.opc)) =
      some (.illegalOp, 0x0B) := by decide
theorem test_fetch_word_arrives :
    (nextOf (step (State.reset.withFetchWord 64 0x0A030000020162B5))).map (fun t => t.env.rxq) = some navPoll := by decide

/-! ## Witnesses: a concrete state that meets the hypotheses of each statement, clause by clause at a boundary -/

theorem witness_ChecksumClosedForm : ∃ (s : Bytes) (k : Nat) (x : Byte), k < s.length ∧ x ≠ s.getD k 0 :=
  ⟨[0x10], 0, 0x11, by decide⟩

/-- MAX_FRAME = 64: 56 bytes fit, 57 do not. -/
theorem witness_EncodeBuildsTheFrame :
    (∃ s : State, 8 + s.opnd.argLen.toNat = s.cfg.maxFrame) ∧ ∃ s : State, s.cfg.maxFrame + 1 = 8 + s.opnd.argLen.toNat :=
  ⟨⟨framed (requesting 0 0 56 0 0 0) [] [], by decide⟩, ⟨framed (requesting 0 0 57 0 0 0) [] [], by decide⟩⟩

/-- An expectation that just fits, a read that is valid, a read that is not. -/
theorem witness_DecodeFollowsOutcomeTable :
    (∃ s : State, s.mode = .framed ∧ 8 + s.opnd.expLen.toNat = s.cfg.maxFrame) ∧
    (∃ s t : State, s.mode = .framed ∧ 8 + s.opnd.expLen.toNat ≤ s.cfg.maxFrame ∧ exec .decode s = .next t ∧
      t.status = .success ∧ 0 < s.opnd.expLen.toNat) ∧
    (∃ s t : State, s.mode = .framed ∧ 8 + s.opnd.expLen.toNat ≤ s.cfg.maxFrame ∧ exec .decode s = .next t ∧
      t.status ≠ .success) :=
  ⟨⟨framed (expecting 0 0 56) [] [quiet], by decide⟩,
    ⟨framed (expecting 0x0A 0x04 1) f1 [quiet], _, by decide, by decide, rfl, by decide, by decide⟩,
    ⟨framed (expecting 0x0A 0x04 1) [] [quiet], _, by decide, by decide, rfl, by decide⟩⟩

theorem witness_DecodeDeliversOnlyOnSuccess :
    (∃ s : State, s.mode = .freerun) ∧
    (∃ s : State, s.mode = .framed ∧ s.cfg.maxFrame + 1 = 8 + s.opnd.expLen.toNat) ∧
    (∃ s : State, s.mode = .framed ∧ 8 + s.opnd.expLen.toNat ≤ s.cfg.maxFrame ∧
      decodeOutcome s.opnd.expClass s.opnd.expId s.opnd.expLen.toNat
        (responseBytes s.env s s.opnd.expLen.toNat) = .success) ∧
    (∃ s : State, s.mode = .framed ∧ 8 + s.opnd.expLen.toNat ≤ s.cfg.maxFrame ∧
      decodeOutcome s.opnd.expClass s.opnd.expId s.opnd.expLen.toNat
        (responseBytes s.env s s.opnd.expLen.toNat) ≠ .success) :=
  ⟨⟨collecting [] [] 0 [], by decide⟩, ⟨framed (expecting 0 0 57) [] [quiet], by decide⟩,
    ⟨framed (expecting 0x0A 0x04 1) f1 [quiet], by decide⟩,
    ⟨framed (expecting 0x0B 0x04 1) f1 [quiet], by decide⟩⟩

/-- Exactly nine bytes waiting; eight waiting and the ninth arriving; eight and no more. -/
theorem witness_DecodeConsumesWhatItRead :
    (∃ s t : State, s.mode = .framed ∧ 8 + s.opnd.expLen.toNat ≤ s.cfg.maxFrame ∧ exec .decode s = .next t ∧
      8 + s.opnd.expLen.toNat = s.env.rxq.length) ∧
    (∃ s t : State, s.mode = .framed ∧ 8 + s.opnd.expLen.toNat ≤ s.cfg.maxFrame ∧ exec .decode s = .next t ∧
      s.env.rxq.length < 8 + s.opnd.expLen.toNat ∧ t.status ≠ .shortRead) ∧
    (∃ s t : State, s.mode = .framed ∧ 8 + s.opnd.expLen.toNat ≤ s.cfg.maxFrame ∧ exec .decode s = .next t ∧
      t.status = .shortRead) :=
  ⟨⟨framed (expecting 0x0A 0x04 1) f1 [quiet], _, by decide, by decide, rfl, by decide⟩,
    ⟨framed (expecting 0x0A 0x04 1) (f1.take 8) [bringing [0x9F]], _, by decide, by decide, rfl, by decide, by decide⟩,
    ⟨framed (expecting 0x0A 0x04 1) (f1.take 8) [quiet], _, by decide, by decide, rfl, by decide⟩⟩

/-- The state that is to encode F1. -/
def encodingF1 : State := { framed (requesting 0x0A 0x04 1 0 0 0) [] [] with pin := [(0, 0x5A)] }

theorem witness_DecodeOfEncodeIsTheMessage :
    ∃ (s t u : State) (tail : Bytes), exec .encode s = .next t ∧ t.status = .success ∧ u.mode = .framed ∧
      8 + u.opnd.expLen.toNat ≤ u.cfg.maxFrame ∧ u.opnd.expClass = s.opnd.argClass ∧ u.opnd.expId = s.opnd.argId ∧
      u.opnd.expLen = s.opnd.argLen ∧ u.env.rxq = spaceBytes t.fb 0 t.resLen ++ tail :=
  ⟨encodingF1, encodeCommand encodingF1, framed (expecting 0x0A 0x04 1) (f1 ++ [0x00]) [quiet], [0x00], rfl, by decide⟩

/-- F1 with its lowest bit flipped at every offset, so at both ends of every range of `flippedOutcome`. -/
theorem witness_OneFlippedBitIsDetected :
    ∀ offset, offset < 9 → ∃ (s : State) (payload tail : Bytes), s.mode = .framed ∧
      8 + s.opnd.expLen.toNat ≤ s.cfg.maxFrame ∧ payload.length = s.opnd.expLen.toNat ∧ offset < 8 + payload.length ∧
      s.env.rxq = (frameBytes s.opnd.expClass s.opnd.expId payload).set offset
        (flipBit ((frameBytes s.opnd.expClass s.opnd.expId payload).getD offset 0) 0) ++ tail := by
  intro offset h
  refine ⟨framed (expecting 0x0A 0x04 1) (f1.set offset (flipBit (f1.getD offset 0) 0) ++ [0x00]) [quiet], [0x5A], [0x00],
    rfl, show (9 : Nat) ≤ 64 by decide, rfl, h, ?_⟩
  have hf : f1 = frameBytes 0x0A 0x04 [0x5A] := by decide
  rw [hf]; rfl

theorem witness_LengthIsCheckedBeforeChecksum :
    ∃ (s : State) (r tail : Bytes), s.mode = .framed ∧ 8 + s.opnd.expLen.toNat ≤ s.cfg.maxFrame ∧
      r.length = 8 + s.opnd.expLen.toNat ∧ s.env.rxq = r ++ tail ∧ r.getD 0 0 = 0xB5 ∧ r.getD 1 0 = 0x62 ∧
      r.getD 2 0 = s.opnd.expClass ∧ r.getD 3 0 = s.opnd.expId ∧
      (r.getD 4 0).toNat + 256 * (r.getD 5 0).toNat ≠ s.opnd.expLen.toNat :=
  ⟨framed (expecting 0x0A 0x04 1) [0xB5, 0x62, 0x0A, 0x04, 0x02, 0x00, 0x5A, 0x6A, 0xA2] [quiet],
    [0xB5, 0x62, 0x0A, 0x04, 0x02, 0x00, 0x5A, 0x6A, 0xA2], [], by decide⟩

/-- A request for the position message, with what the two transport calls do. -/
def pollingNav (write read : Draw) : State := framed (requesting 0x01 0x02 0 0x01 0x02 28) [] [write, read]

/-- BadOperand and EncodeOverflow by one byte, a transmit one byte short, a response that never comes, and a
valid one. -/
theorem witness_ReqrespFollowsItsRule :
    (∃ s : State, s.mode = .framed ∧ s.cfg.maxFrame + 1 = 8 + s.opnd.expLen.toNat) ∧
    (∃ s : State, s.mode = .framed ∧ 8 + s.opnd.expLen.toNat = s.cfg.maxFrame ∧
      s.cfg.maxFrame + 1 = 8 + s.opnd.argLen.toNat) ∧
    (∃ s : State, s.mode = .framed ∧ 8 + s.opnd.expLen.toNat ≤ s.cfg.maxFrame ∧
      8 + s.opnd.argLen.toNat ≤ s.cfg.maxFrame ∧
      s.env.draw.accepts + 1 =
        (frameBytes s.opnd.argClass s.opnd.argId (spaceBytes s.pin 0 s.opnd.argLen.toNat)).length) ∧
    (∃ (s : State) (request r : Bytes), s.mode = .framed ∧ 8 + s.opnd.expLen.toNat ≤ s.cfg.maxFrame ∧
      8 + s.opnd.argLen.toNat ≤ s.cfg.maxFrame ∧
      request = frameBytes s.opnd.argClass s.opnd.argId (spaceBytes s.pin 0 s.opnd.argLen.toNat) ∧
      request.length ≤ s.env.draw.accepts ∧
      r = responseBytes (tWrite s.env request).2 s s.opnd.expLen.toNat ∧
      decodeOutcome s.opnd.expClass s.opnd.expId s.opnd.expLen.toNat r ≠ .success) ∧
    (∃ (s : State) (request r : Bytes), s.mode = .framed ∧ 8 + s.opnd.expLen.toNat ≤ s.cfg.maxFrame ∧
      8 + s.opnd.argLen.toNat ≤ s.cfg.maxFrame ∧
      request = frameBytes s.opnd.argClass s.opnd.argId (spaceBytes s.pin 0 s.opnd.argLen.toNat) ∧
      request.length = s.env.draw.accepts ∧
      r = responseBytes (tWrite s.env request).2 s s.opnd.expLen.toNat ∧
      decodeOutcome s.opnd.expClass s.opnd.expId s.opnd.expLen.toNat r = .success) :=
  ⟨⟨framed (requesting 0 0 0 0 0 57) [] [], by decide⟩, ⟨framed (requesting 0 0 57 0 0 56) [] [], by decide⟩,
    ⟨pollingNav (accepting 7) quiet, by decide⟩,
    ⟨pollingNav quiet quiet, _, _, by decide, by decide, by decide, rfl, by decide, rfl, by decide⟩,
    ⟨pollingNav (accepting 8) (bringing navResponse), _, _, by decide, by decide, by decide, rfl, by decide, rfl,
      by decide⟩⟩

/-- Eight bytes accepted and a valid response; eight accepted and none; seven accepted. -/
theorem witness_GetfixFollowsItsRule :
    (∃ (s : State) (r : Bytes), s.mode = .framed ∧ r = responseBytes (tWrite s.env navPoll).2 s 28 ∧
      8 = s.env.draw.accepts ∧ decodeOutcome 0x01 0x02 28 r = .success) ∧
    (∃ (s : State) (r : Bytes), s.mode = .framed ∧ r = responseBytes (tWrite s.env navPoll).2 s 28 ∧
      8 ≤ s.env.draw.accepts ∧ decodeOutcome 0x01 0x02 28 r ≠ .success) ∧
    (∃ s : State, s.mode = .framed ∧ s.env.draw.accepts = 7) :=
  ⟨⟨pollingNav (accepting 8) (bringing navResponse), _, by decide, rfl, by decide, by decide⟩,
    ⟨pollingNav quiet quiet, _, by decide, rfl, by decide, by decide⟩, ⟨pollingNav (accepting 7) quiet, by decide⟩⟩

/-- SETFMT with the bit index and the three transport calls. -/
def changingFormat (bit : Byte) (query read back : Draw) : State := framed (formatting bit true) [] [query, read, back]

/-- After a valid response: the highest legal bit; the second write whole, and one byte short. -/
theorem witness_SetfmtFollowsItsRule_back :
    (∃ (s : State) (query r : Bytes) (sent read : Env), s.mode = .framed ∧ s.opnd.argFmt.toNat = 7 ∧
      8 ≤ s.env.draw.accepts ∧ query = frameBytes s.cfg.cfgClass s.cfg.cfgId [] ∧ sent = (tWrite s.env query).2 ∧
      r = responseBytes sent s 20 ∧ read = responseEnv sent s 20 ∧
      decodeOutcome s.cfg.cfgClass s.cfg.cfgId 20 r = .success ∧ 28 = read.draw.accepts) ∧
    (∃ (s : State) (query r : Bytes) (sent read : Env), s.mode = .framed ∧ s.opnd.argFmt.toNat ≤ 7 ∧
      8 ≤ s.env.draw.accepts ∧ query = frameBytes s.cfg.cfgClass s.cfg.cfgId [] ∧ sent = (tWrite s.env query).2 ∧
      r = responseBytes sent s 20 ∧ read = responseEnv sent s 20 ∧
      decodeOutcome s.cfg.cfgClass s.cfg.cfgId 20 r = .success ∧ read.draw.accepts = 27) :=
  ⟨⟨changingFormat 7 quiet (bringing cfgResponse) (accepting 28), _, _, _, _, by decide, by decide, by decide, rfl, rfl,
      rfl, rfl, by decide, by decide⟩,
    ⟨changingFormat 0 quiet (bringing cfgResponse) (accepting 27), _, _, _, _, by decide, by decide, by decide, rfl, rfl,
      rfl, rfl, by decide, by decide⟩⟩

theorem witness_SetfmtChangesOneBit : ∃ (p : Bytes) (k : Nat), p.length = 20 ∧ k = 7 ∧ k ≤ 7 :=
  ⟨cfgPayload, 7, by decide⟩

/-- The paths that end before the second frame. -/
theorem witness_SetfmtFollowsItsRule :
    (∃ s : State, s.mode = .framed ∧ s.opnd.argFmt.toNat = 8) ∧
    (∃ s : State, s.mode = .framed ∧ s.opnd.argFmt.toNat = 7 ∧ s.env.draw.accepts = 7) ∧
    (∃ (s : State) (query r : Bytes) (sent : Env), s.mode = .framed ∧
      query = frameBytes s.cfg.cfgClass s.cfg.cfgId [] ∧ sent = (tWrite s.env query).2 ∧
      r = responseBytes sent s 20 ∧ s.opnd.argFmt.toNat ≤ 7 ∧ 8 = s.env.draw.accepts ∧
      decodeOutcome s.cfg.cfgClass s.cfg.cfgId 20 r ≠ .success) :=
  ⟨⟨changingFormat 8 quiet quiet quiet, by decide⟩, ⟨changingFormat 7 (accepting 7) quiet quiet, by decide⟩,
    ⟨changingFormat 1 (accepting 8) (bringing (cfgResponse.set 20 0x01)) quiet, _, _, _, by decide, rfl, rfl, rfl,
      by decide, by decide, by decide⟩⟩

/-- All ten bytes accepted, and nine. -/
theorem witness_ApplyrstSendsTenBytes :
    (∃ s : State, s.mode = .framed ∧ s.env.draw.accepts = 10) ∧ ∃ s : State, s.mode = .framed ∧ s.env.draw.accepts = 9 :=
  ⟨⟨framed Operands.zero [] [accepting 10], by decide⟩, ⟨framed Operands.zero [] [accepting 9], by decide⟩⟩

theorem witness_FailedExchangeLeavesResults :
    ∃ (i : Instr) (s t : State), i ∈ [Instr.decode, .reqresp, .getfix, .setfmt, .applyrst] ∧ exec i s = .next t ∧
      t.status ≠ .success :=
  ⟨.getfix, pollingNav quiet quiet, getfixCommand (pollingNav quiet quiet), by decide, rfl, by decide⟩

/-- No flush, a publish, a drop, an exact fill, one byte too many. -/
theorem witness_PollFollowsItsRule :
    (∃ s : State, s.mode = .framed) ∧
    (∃ s : State, s.mode = .freerun ∧ s.env.rxq.length = 0 ∧ ¬(2 ≤ min (s.idleCount + 1) 2 ∧ 0 < s.lbCursor)) ∧
    (∃ s : State, s.mode = .freerun ∧ s.env.rxq.length = 0 ∧ (2 ≤ min (s.idleCount + 1) 2 ∧ 0 < s.lbCursor) ∧
      s.lb.read 0 = 0x24 ∧ s.lb.read (s.lbCursor - 1) = 0x0A) ∧
    (∃ s : State, s.mode = .freerun ∧ s.env.rxq.length = 0 ∧ (2 ≤ min (s.idleCount + 1) 2 ∧ 0 < s.lbCursor) ∧
      ¬(s.lb.read 0 = 0x24 ∧ s.lb.read (s.lbCursor - 1) = 0x0A)) ∧
    (∃ s : State, s.mode = .freerun ∧ 0 < s.env.rxq.length ∧ s.lbCursor + s.env.rxq.length = s.cfg.lineCapacity) ∧
    (∃ s : State, s.mode = .freerun ∧ 0 < s.env.rxq.length ∧ s.cfg.lineCapacity + 1 = s.lbCursor + s.env.rxq.length) :=
  ⟨⟨State.reset, by decide⟩, ⟨collecting [0x24] [] 0 [], by decide⟩, ⟨collecting [0x24, 0x0A] [] 1 [], by decide⟩,
    ⟨collecting [0x24] [] 1 [], by decide⟩, ⟨collecting (List.replicate 30 0x41) [] 0 [0x41, 0x42], by decide⟩,
    ⟨collecting (List.replicate 30 0x41) [] 0 [0x41, 0x42, 0x43], by decide⟩⟩

/-- One state for each of the eight rows of R159. -/
theorem witness_PollFollowsTransitionTable :
    (∃ s : State, s.mode = .freerun ∧ s.lbCursor = 0 ∧ s.env.rxq.length = 0) ∧
    (∃ s : State, s.mode = .freerun ∧ s.lbCursor = 0 ∧ 0 < s.env.rxq.length ∧
      s.env.rxq.length = s.cfg.lineCapacity) ∧
    (∃ s : State, s.mode = .freerun ∧ s.lbCursor = 0 ∧ 0 < s.env.rxq.length ∧
      s.cfg.lineCapacity + 1 = s.env.rxq.length) ∧
    (∃ s : State, s.mode = .freerun ∧ 0 < s.lbCursor ∧ s.env.rxq.length = 0 ∧ s.idleCount = 0) ∧
    (∃ s : State, s.mode = .freerun ∧ 0 < s.lbCursor ∧ s.env.rxq.length = 0 ∧ s.idleCount = 1 ∧
      s.lb.read 0 = 0x24 ∧ s.lb.read (s.lbCursor - 1) = 0x0A) ∧
    (∃ s : State, s.mode = .freerun ∧ 0 < s.lbCursor ∧ s.env.rxq.length = 0 ∧ s.idleCount = 1 ∧
      ¬(s.lb.read 0 = 0x24 ∧ s.lb.read (s.lbCursor - 1) = 0x0A)) ∧
    (∃ s : State, s.mode = .freerun ∧ 0 < s.lbCursor ∧ 0 < s.env.rxq.length ∧
      s.lbCursor + s.env.rxq.length = s.cfg.lineCapacity) ∧
    (∃ s : State, s.mode = .freerun ∧ 0 < s.lbCursor ∧ 0 < s.env.rxq.length ∧
      s.cfg.lineCapacity + 1 = s.lbCursor + s.env.rxq.length) :=
  ⟨⟨collecting [] [] 2 [], by decide⟩, ⟨collecting [] [] 0 (List.replicate 32 0x41), by decide⟩,
    ⟨collecting [] [] 0 (List.replicate 33 0x41), by decide⟩, ⟨collecting [0x24] [] 0 [], by decide⟩,
    ⟨collecting [0x24, 0x0A] [] 1 [], by decide⟩, ⟨collecting [0x24] [] 1 [], by decide⟩,
    ⟨collecting [0x24] [] 0 (List.replicate 31 0x41), by decide⟩,
    ⟨collecting [0x24] [] 0 (List.replicate 32 0x41), by decide⟩⟩

theorem witness_PollAccumulatesAtTheCursor :
    ∃ s : State, s.mode = .freerun ∧ 0 < s.env.rxq.length ∧
      s.lbCursor + s.env.rxq.length = s.cfg.lineCapacity :=
  ⟨collecting [0x24] [] 0 (List.replicate 31 0x41), by decide⟩

/-- The shortest sentence. -/
theorem witness_PollPublishesTheWholeRun :
    ∃ s : State, s.mode = .freerun ∧ s.env.rxq = [] ∧ 0 < s.lbCursor ∧ 1 ≤ s.idleCount ∧ s.lb.read 0 = 0x24 ∧
      s.lb.read (s.lbCursor - 1) = 0x0A := ⟨collecting [0x24, 0x0A] [] 1 [], by decide⟩

/-- One byte, which cannot be both delimiters. -/
theorem witness_PollDropsSilently :
    ∃ s : State, s.mode = .freerun ∧ s.env.rxq = [] ∧ 0 < s.lbCursor ∧ 1 ≤ s.idleCount ∧
      ¬(s.lb.read 0 = 0x24 ∧ s.lb.read (s.lbCursor - 1) = 0x0A) := ⟨collecting [0x24] [] 1 [], by decide⟩

theorem witness_SecondEmptyPollFlushes :
    (∃ s t : State, s.mode = .freerun ∧ exec .poll s = .next t ∧ 0 < s.env.rxq.length) ∧
    (∃ s t : State, s.mode = .freerun ∧ exec .poll s = .next t ∧ 0 < s.lbCursor ∧ t.lbCursor = 0) ∧
    (∃ t u v : State, t.mode = .freerun ∧ 0 < t.lbCursor ∧ t.idleCount = 0 ∧ t.env.rxq = [] ∧
      exec .poll t = .next u ∧ u.env.rxq = [] ∧ exec .poll u = .next v) :=
  ⟨⟨collecting [] [] 1 [0x24], pollCommand (collecting [] [] 1 [0x24]), by decide, rfl, by decide⟩,
    ⟨collecting [0x24] [] 1 [], pollCommand (collecting [0x24] [] 1 []), by decide, rfl, by decide, by decide⟩,
    ⟨collecting [0x24] [] 0 [], pollCommand (collecting [0x24] [] 0 []),
      pollCommand (pollCommand (collecting [0x24] [] 0 [])), by decide, by decide, by decide, by decide, rfl, by decide,
      rfl⟩⟩

theorem witness_CapacityExceededReadsNothing :
    (∃ s : State, s.mode = .freerun ∧ 0 < s.env.rxq.length ∧ s.cfg.lineCapacity + 1 = s.lbCursor + s.env.rxq.length) ∧
    (∃ s : State, s.mode = .freerun ∧ 0 < s.env.rxq.length ∧ s.lbCursor + s.env.rxq.length = s.cfg.lineCapacity) :=
  ⟨⟨collecting [0x24] [] 0 (List.replicate 32 0x41), by decide⟩,
    ⟨collecting [0x24] [] 0 (List.replicate 31 0x41), by decide⟩⟩

theorem witness_CapacityExceededRepeats :
    ∃ s t : State, s.mode = .freerun ∧ exec .poll s = .next t ∧ t.status = .capacityExceeded :=
  ⟨collecting [0x24] [] 0 (List.replicate 32 0x41), pollCommand (collecting [0x24] [] 0 (List.replicate 32 0x41)),
    by decide, rfl, by decide⟩

/-- A sentence pending, none, and one as long as POUT. -/
theorem witness_RdsentIsOneShot :
    (∃ s : State, s.mode = .framed) ∧ (∃ s : State, s.mode = .freerun ∧ 0 < s.cbLen ∧ s.cbLen ≤ 65535) ∧
      (∃ s : State, s.mode = .freerun ∧ s.cbLen = 0) ∧ ∃ s : State, s.mode = .freerun ∧ s.cbLen = 65535 :=
  ⟨⟨State.reset, by decide⟩, ⟨collecting [] [0x24, 0x0A] 0 [], by decide⟩, ⟨collecting [] [] 0 [], by decide⟩,
    ⟨{ collecting [] [] 0 [] with cbLen := 65535 }, rfl, rfl⟩⟩

/-- An instance whose LINE_CAPACITY is one above the size of POUT. -/
theorem witness_RdsentStaysInsidePout :
    ∃ s : State, s.mode = .freerun ∧ 65535 < s.cbLen ∧ s.cbLen ≤ s.cfg.lineCapacity :=
  ⟨{ collecting [] [] 0 [] with
      cbLen := 65536
      cfg := { Config.default with lineCapacity := 65536, lineCapacity_pos := by decide } }, rfl, by decide, by decide⟩

theorem witness_LcresetEmptiesTheLine :
    (∃ s : State, s.mode = .framed) ∧ ∃ s : State, s.mode = .freerun ∧ 0 < s.lbCursor :=
  ⟨⟨State.reset, by decide⟩, ⟨collecting [0x24] [] 1 [], by decide⟩⟩

/-- The two values next to the ten opcodes. -/
theorem witness_IllegalOpcodeIsRefused :
    (∃ (s : State) (rest : List Input), s.host.inputs = .issue 0x00 :: rest) ∧
    (∃ (s : State) (rest : List Input), s.host.inputs = .issue 0x0B :: rest ∧ 0x0A < (0x0B : Byte).toNat) :=
  ⟨⟨facing State.reset [.issue 0x00], [], by decide⟩, ⟨facing State.reset [.issue 0x0B], [], by decide⟩⟩

theorem witness_WrongModeIsRefused :
    (∃ (i : Instr) (s : State), i ∈ [Instr.decode, .reqresp, .getfix, .setfmt, .applyrst] ∧ s.mode = .freerun) ∧
    (∃ (i : Instr) (s : State), i ∈ [Instr.poll, .rdsent, .lcreset] ∧ s.mode = .framed) ∧
    (∃ (i : Instr) (s t : State), isCommand i = true ∧ exec i s = .next t ∧ t.status = .wrongMode) :=
  ⟨⟨.decode, collecting [] [] 0 [], by decide⟩, ⟨.poll, State.reset, by decide⟩,
    ⟨.poll, State.reset, State.reset.finish .wrongMode, by decide, rfl, by decide⟩⟩

theorem witness_BadOperandIsRefused :
    (∃ s : State, s.mode = .framed ∧ s.cfg.maxFrame + 1 = 8 + s.opnd.expLen.toNat) ∧
    (∃ s : State, s.mode = .framed ∧ s.opnd.argFmt.toNat = 8) ∧
    (∃ (i : Instr) (s t : State), s.mode = .framed ∧ isCommand i = true ∧ exec i s = .next t ∧
      t.status = .badOperand) :=
  ⟨⟨framed (expecting 0 0 57) [] [], by decide⟩, ⟨framed (formatting 8 true) [] [], by decide⟩,
    ⟨.setfmt, framed (formatting 8 true) [] [], (framed (formatting 8 true) [] []).finish .badOperand, by decide,
      by decide, rfl, by decide⟩⟩

theorem witness_StatusesAreThoseOfTheTable :
    ∃ (i : Instr) (s t : State), isCommand i = true ∧ exec i s = .next t :=
  ⟨.cksum, State.reset, cksumCommand State.reset, by decide, rfl⟩

/-- For the statements over every instruction that answers a next state, among them one whose status is no success. -/
theorem witness_BlockNeverWritesOperandsOrMode :
    ∃ (i : Instr) (s t : State), exec i s = .next t ∧ i ≠ .poll :=
  ⟨.navPollFrame, State.reset, State.reset.peerDelivers navPoll, rfl, by decide⟩

theorem witness_ResultRegistersHaveOwners :
    (∃ (i : Instr) (s t : State), exec i s = .next t ∧ i ∉ [Instr.encode, .decode, .reqresp, .rdsent] ∧ i ≠ .poll ∧
      i ≠ .cksum ∧ i ≠ .getfix) ∧
    (∃ (i : Instr) (s t : State), exec i s = .next t ∧ t.status ≠ .success ∧ isCommand i = true) :=
  ⟨⟨.lcreset, collecting [] [] 0 [], lcresetCommand (collecting [] [] 0 []), rfl, by decide⟩,
    ⟨.poll, State.reset, State.reset.finish .wrongMode, rfl, by decide⟩⟩

theorem witness_SpacesHaveOwners :
    (∃ (i : Instr) (s t : State), exec i s = .next t ∧
      i ∉ [Instr.encode, .decode, .reqresp, .getfix, .setfmt, .applyrst] ∧ i ≠ .poll) ∧
    (∃ (i : Instr) (s t : State), exec i s = .next t ∧ i ∈ [Instr.cksum, .encode, .rdsent, .lcreset]) :=
  ⟨⟨.illegal 0, State.reset, State.reset.finish .illegalOp, rfl, by decide⟩,
    ⟨.cksum, State.reset, cksumCommand State.reset, rfl, by decide⟩⟩

theorem witness_TxStreamOnlyGrows : ∃ s t : State, step s = .next t ∧ t.env.tx ≠ s.env.tx :=
  ⟨facing (framed Operands.zero [] [quiet]) [.issue 0x07],
    applyrstCommand (facing ((framed Operands.zero [] [quiet]).startCommand 0x07) []), rfl, by decide⟩

/-- As many bytes as asked for, one fewer that the wait makes good, and one fewer for good. -/
theorem witness_TransportContract :
    (∃ (e : Env) (count : Nat), count = e.rxq.length) ∧ (∃ (e : Env) (count : Nat), e.rxq.length + 1 = count) ∧
    (∃ (e : Env) (count timeout : Nat), (tReadExact e count timeout).1.length < count) :=
  ⟨⟨(framed Operands.zero f1 [quiet]).env, 9, by decide⟩, ⟨(framed Operands.zero f1 [quiet]).env, 10, by decide⟩,
    ⟨(framed Operands.zero f1 [quiet]).env, 10, 0, by decide⟩⟩

/-- Two states that differ in the ReceiveSession, above the cursor of LB, above CB_LEN and in FB, before a POLL. -/
def leftoverA : State := facing (collecting [0x24, 0x0A] [0x24, 0x0A] 1 []) [.issue 0x08]
def leftoverB : State :=
  { leftoverA with
    session := { count := 7, ckA := 1, ckB := 2 }, fb := [(3, 0x55)], lb := leftoverA.lb.write 5 0x41
    cb := leftoverA.cb.write 2 0x42 }

theorem witness_LeftoversAreNeverRead :
    ∃ s t s' t' : State, s ≠ t ∧ SameButLeftovers s t ∧ step s = .next s' ∧ step t = .next t' :=
  ⟨leftoverA, leftoverB, pollCommand (facing (leftoverA.startCommand 0x08) []),
    pollCommand (facing (leftoverB.startCommand 0x08) []), by decide, ⟨rfl, by decide, by decide, by decide⟩, rfl, rfl⟩

theorem witness_WireRowsArriveInRxq : ∃ i : Instr, (encode i).1 = .wire := ⟨.sentence [], by decide⟩

/-- A run that is a row, and a run that is none. -/
theorem witness_AnyArrivalIsAppended :
    (∃ (s : State) (rest : List Input), s.host.inputs = .arrive f1 :: rest) ∧
    (∃ (s : State) (rest : List Input), s.host.inputs = .arrive [0x00] :: rest) :=
  ⟨⟨facing State.reset [.arrive f1], [], by decide⟩, ⟨facing State.reset [.arrive [0x00]], [], by decide⟩⟩

/-- The longest payload the length field holds. -/
theorem witness_DecodeInvertsEncode :
    ∃ (cfg : Config) (p : Bytes), p.length = 65535 ∧ (Instr.ubxFrame 0x0A 0x04 p 0 0).wellFormed cfg = true := by
  obtain ⟨p, hp⟩ : ∃ p : Bytes, p.length = 65535 := ⟨List.replicate 65535 0, List.length_replicate⟩
  exact ⟨Config.default, p, hp,
    by simp [Instr.wellFormed, isPlainFrame, isNavPoll, isNavResponse, isCfg, isRst, Config.default, hp]⟩

theorem witness_EncodeInvertsDecode :
    ∃ (cfg : Config) (port : Port) (bytes : Bytes) (i : Instr), decode cfg port bytes = .ok i :=
  ⟨Config.default, .wire, f1, .ubxFrame 0x0A 0x04 [0x5A] 0x69 0x9F, by decide⟩

theorem witness_BuiltFramesAreTheRows : ∃ r : Bytes, r.length = 28 := ⟨cfgResponse, by decide⟩

theorem witness_StepRunsTheIssuedCommand :
    ∃ (s : State) (opc : Byte) (rest : List Input), s.host.inputs = .issue opc :: rest :=
  ⟨facing State.reset [.issue 0x01, .idle], 0x01, [.idle], by decide⟩

theorem witness_StepRunsTheArrivedRow :
    ∃ (s : State) (bytes : Bytes) (rest : List Input) (i : Instr), s.host.inputs = .arrive bytes :: rest ∧
      decode s.cfg .wire bytes = .ok i :=
  ⟨facing State.reset [.arrive navPoll], navPoll, [], .navPollFrame, by decide⟩

theorem witness_HardwareResetValues :
    ∃ (s : State) (strap : Mode) (rest : List Input), s.host.inputs = .reset strap :: rest :=
  ⟨facing (collecting [0x24] [0x24, 0x0A] 1 [0x41]) [.reset .framed], .framed, [], by decide⟩

/-- Each clause of `AbandonedCommandKeepsTransportEffects`: the command, the calls made, the bytes copied. -/
theorem witness_AbandonedCommandKeepsTransportEffects :
    (∀ c ∈ ([(0x03, 0, 0), (0x03, 1, 1), (0x04, 0, 0), (0x04, 1, 0), (0x04, 2, 0), (0x04, 3, 1), (0x05, 1, 0),
        (0x05, 2, 0), (0x06, 1, 0), (0x06, 2, 0), (0x06, 3, 0), (0x07, 0, 0), (0x07, 1, 0), (0x0B, 1, 0), (0x08, 1, 0)] :
        List (Byte × Nat × Nat)),
      ∃ (s t : State) (rest : List Input), s.host.inputs = .abandon c.1 c.2.1 c.2.2 .freerun :: rest ∧
        s.mode = .framed ∧ 8 + s.opnd.expLen.toNat ≤ s.cfg.maxFrame ∧ 8 + s.opnd.argLen.toNat ≤ s.cfg.maxFrame ∧
        s.opnd.argFmt.toNat ≤ 7 ∧ exec (decodeCommand c.1) (s.afterInput.startCommand c.1) = .next t) ∧
    (∀ c ∈ ([(0x08, 0, 0), (0x08, 1, 0), (0x08, 2, 0), (0x09, 0, 0), (0x09, 3, 1), (0x0A, 1, 0), (0x01, 1, 0),
        (0x02, 1, 0), (0x03, 1, 1)] : List (Byte × Nat × Nat)),
      ∃ (s t : State) (rest : List Input), s.host.inputs = .abandon c.1 c.2.1 c.2.2 .framed :: rest ∧
        s.mode = .freerun ∧ exec (decodeCommand c.1) (s.afterInput.startCommand c.1) = .next t) := by
  constructor
  · intro c _
    obtain ⟨t, ht⟩ := exec_completes (decodeCommand c.1)
      ((facing (framed (requesting 0x01 0x02 0 0x0A 0x04 1) [] [quiet]) []).startCommand c.1)
    exact ⟨facing (framed (requesting 0x01 0x02 0 0x0A 0x04 1) [] [quiet]) [.abandon c.1 c.2.1 c.2.2 .freerun], t, [], rfl,
      rfl, show (9 : Nat) ≤ 64 by decide, show (8 : Nat) ≤ 64 by decide, show (0 : Nat) ≤ 7 by decide, ht⟩
  · intro c _
    obtain ⟨t, ht⟩ := exec_completes (decodeCommand c.1)
      ((facing (collecting [] [0x24, 0x0A] 1 [0x41]) []).startCommand c.1)
    exact ⟨facing (collecting [] [0x24, 0x0A] 1 [0x41]) [.abandon c.1 c.2.1 c.2.2 .framed], t, [], rfl, rfl, ht⟩

/-- R230, R173: SETFMT cut off between the response and the second frame: the query is sent, the response is gone from RXQ,
nothing further is sent. -/
theorem test_abandoned_setfmt :
    (match step (facing (framed (formatting 1 false) cfgResponse [quiet, quiet]) [.abandon 0x06 2 0 .framed]) with
      | .next t => (t.env.tx, t.env.rxq, t.status)
      | _ => ([], [], .illegalOp)) = (cfgPoll, [], .success) := by decide

/-- R230, R13: RDSENT cut off after one byte of its copy; POUT holds that byte, STATUS is the reset value. -/
theorem test_abandoned_rdsent :
    (match step (facing (collecting [] [0x24, 0x0A] 1 []) [.abandon 0x09 0 1 .framed]) with
      | .next t => (t.pout.read 0, t.pout.read 1, t.status, t.cbLen)
      | _ => (0, 0, .illegalOp, 0)) = (0x24, 0x00, .success, 0) := by decide

theorem witness_IdleStepKeepsEverything :
    ∃ (s : State) (rest : List Input), s.host.inputs = .idle :: rest :=
  ⟨facing State.reset [.idle], [], by decide⟩

/-- A register, both ends of POUT and PIN, and a delivered frame. -/
theorem witness_HostReadHasNoSideEffect :
    (∃ (s : State) (rest : List Input), s.host.inputs = .read .status :: rest) ∧
    (∃ (s : State) (rest : List Input), s.host.inputs = .read (.pin 65534) :: rest) ∧
    (∃ (s : State) (rest : List Input), s.host.inputs = .read (.pout 0) :: rest) ∧
    (∃ (s : State) (rest : List Input), s.host.inputs = .read (.fb 8) :: rest ∧ s.frameReady = true ∧ 8 < s.resLen) :=
  ⟨⟨facing State.reset [.read .status], [], rfl⟩, ⟨facing State.reset [.read (.pin 65534)], [], rfl⟩,
    ⟨facing State.reset [.read (.pout 0)], [], rfl⟩, ⟨facing (encodeCommand encodingF1) [.read (.fb 8)], [], by decide⟩⟩

theorem witness_HostWriteIsReadBack :
    ∃ (s : State) (rest : List Input), s.host.inputs = .write (.pout 65534 0x5A) :: rest :=
  ⟨facing State.reset [.write (.pout 65534 0x5A)], [], rfl⟩

/-- R105, R195: after a poll that accumulated, the host reads RES_EVENT as 0x01. -/
theorem test_read_event :
    (match step (facing (pollCommand (collecting [] [] 0 [0x24])) [.read .resEvent]) with
      | .next t => t.host.data
      | _ => 0) = 1 := by decide

theorem witness_FrameReadableOnlyAfterEncode :
    ∃ (s t : State) (rest : List Input), s.host.inputs = .issue 0x02 :: rest ∧ step s = .next t :=
  ⟨facing encodingF1 [.issue 0x02], encodeCommand (facing (encodingF1.startCommand 0x02) []), [], by decide, rfl⟩

theorem witness_EveryStepKeepsGood : ∃ s t : State, s.Good ∧ step s = .next t :=
  ⟨facing State.reset [.reset .freerun], hardwareReset .freerun (facing State.reset []),
    ⟨⟨rfl, rfl, rfl, rfl, rfl⟩, ⟨rfl, rfl, rfl, rfl, rfl⟩,
      ⟨by decide, by decide, by decide, fun h => absurd h (by decide), fun h => absurd h (by decide)⟩⟩, rfl⟩

end Sys2Proof.Tests
end

/-! ## The step, move by move

What one move of the outside world makes of the state (R8, R9, R101, R230), so that a proof about every step is a proof
about these seven moves. -/

namespace Sys2Proof.Machine

/-- The bytes a run of bytes adds to RXQ: those of its row when it is one (log 1), else the run itself (R69). -/
def arrivedBytes (cfg : Config) (bytes : Bytes) : Bytes :=
  match decodeWire cfg bytes with
  | .ok i => (encode i).2
  | .error _ => bytes

/-- What each move makes of a state from which it has been taken. -/
inductive Moved (s : State) : Input → State → Prop
  | idle : Moved s .idle s
  | write (w : HostWrite) : Moved s (.write w) (s.hostWrite w)
  | issue (opc : Byte) (t : State) (run : exec (decodeCommand opc) (s.startCommand opc) = .next t) :
      Moved s (.issue opc) t
  | read (p : HostPort) : Moved s (.read p) (s.hostRead p)
  | arrive (bytes : Bytes) : Moved s (.arrive bytes) (s.peerDelivers (arrivedBytes s.cfg bytes))
  | reset (strap : Mode) : Moved s (.reset strap) (hardwareReset strap s)
  | abandon (opc : Byte) (calls copied : Nat) (strap : Mode) :
      Moved s (.abandon opc calls copied strap)
        (abandonCommand (decodeCommand opc) calls copied strap (s.startCommand opc))

theorem classifyFrame_port (cfg : Config) (cls id : Byte) (p : Bytes) (ckA ckB : Byte) :
    (encode (classifyFrame cfg cls id p ckA ckB)).1 = .wire := by
  unfold classifyFrame; split_ifs <;> rfl

/-- What the peer sends is never a command (R100, R101). -/
theorem decodeWire_port {cfg : Config} {bytes : Bytes} {i : Instr} (h : decodeWire cfg bytes = .ok i) :
    (encode i).1 = .wire := by
  unfold decodeWire at h
  split at h
  · cases h
  · split_ifs at h
    · unfold decodeSentenceTail at h
      split_ifs at h
      injection h with h; subst h; rfl
    · unfold decodeFrameBytes at h
      split at h
      · split_ifs at h
        injection h with h; subst h; exact classifyFrame_port _ _ _ _ _ _
      · cases h

/-- A wire row appends its words to RXQ (log 1). -/
theorem exec_wire {i : Instr} (s : State) (h : (encode i).1 = .wire) :
    exec i s = .next (s.peerDelivers (encode i).2) := by
  cases i <;> cases h <;> rfl

/-- Every step is its next move. -/
theorem step_moved {s t : State} (h : step s = .next t) : Moved s.afterInput s.nextInput t := by
  unfold step State.fetch at h
  cases hi : s.nextInput <;> rw [hi] at h
  case arrive bytes =>
    have key := Moved.arrive (s := s.afterInput) bytes
    unfold arrivedBytes at key
    cases hd : decodeWire s.afterInput.cfg bytes with
    | ok i =>
      rw [fetchFrom_arrive_ok hd] at h
      injection (exec_wire _ (decodeWire_port hd)).symm.trans h with h
      simpa only [hd, h] using key
    | error e =>
      rw [fetchFrom_arrive_error hd] at h
      injection h with h
      simpa only [hd, h] using key
  case issue opc => exact .issue opc t h
  all_goals (injection h with h; subst h; constructor)

/-! ## How the commands end

Each command that goes through a procedure of the codec does something on Success and only writes STATUS otherwise. -/

/-- What a command does with the ending of a procedure. -/
def onSuccess (ended : Status × State) (body : State → State) : State :=
  match ended with
  | (.success, t) => body t
  | (failure, t) => t.finish failure

theorem onSuccess_cases {P : State → Prop} {ended : Status × State} {body : State → State}
    (success : ended.1 = .success → P (body ended.2)) (failure : ended.1 ≠ .success → P (ended.2.finish ended.1)) :
    P (onSuccess ended body) := by
  obtain ⟨st, t⟩ := ended
  cases st
  case success => exact success rfl
  all_goals exact failure nofun

theorem whenMode_cases {P : State → Prop} {m : Mode} {body : State → State} {s : State}
    (refused : P (s.finish .wrongMode)) (accepted : P (body s)) : P (whenMode m body s) := by
  unfold whenMode; split
  · exact accepted
  · exact refused

theorem whenOperand_cases {P : State → Prop} {ok : State → Bool} {body : State → State} {s : State}
    (refused : P (s.finish .badOperand)) (accepted : ok s = true → P (body s)) : P (whenOperand ok body s) := by
  unfold whenOperand; split
  · rename_i h; exact accepted h
  · exact refused

theorem encodeCommand_eq_onSuccess (s : State) :
    encodeCommand s =
      onSuccess (encodeFrame s s.opnd.argClass s.opnd.argId s.argPayload) fun t =>
        ({ t with resLen := frameLength s.argLength, frameReady := true }).finish .success := rfl

/-- ENCODE when the frame does not fit FB (R131). -/
theorem encodeCommand_of_overflow {s : State} (h : s.cfg.maxFrame < 8 + s.argPayload.length) :
    encodeCommand s = s.finish .encodeOverflow := by
  rw [encodeCommand_eq_onSuccess, encodeFrame_eq, if_pos h]; rfl

/-- ENCODE when it fits (R131). -/
theorem encodeCommand_of_fits {s : State} (h : ¬s.cfg.maxFrame < 8 + s.argPayload.length) :
    encodeCommand s =
      { s with
        fb := s.fb.writeRange 0 (frameBytes s.opnd.argClass s.opnd.argId s.argPayload)
        resLen := 8 + s.argPayload.length
        frameReady := true
        status := .success } := by
  rw [encodeCommand_eq_onSuccess, encodeFrame_eq, if_neg h, length_argPayload, ← frameLength_eq]; rfl

theorem decodeCommandBody_eq_onSuccess (s : State) :
    decodeCommandBody s =
      onSuccess (decodeFrame s s.opnd.expClass s.opnd.expId s.expLength) fun t =>
        (deliverPayload t s.expLength).finish .success := rfl

theorem reqrespCommand_eq_onSuccess (s : State) :
    reqrespCommand s =
      onSuccess (exchange s s.opnd.argClass s.opnd.argId s.argPayload s.opnd.expClass s.opnd.expId s.expLength) fun t =>
        (deliverPayload t s.expLength).finish .success := rfl

theorem getfixCommand_eq_onSuccess (s : State) :
    getfixCommand s =
      onSuccess (exchange s navClass navId [] navClass navId navLen) fun t =>
        ({ t with fix := fixOfPayload (t.framePayload navLen) }).finish .success := rfl

/-- The second half of SETFMT: the payload received goes back with one bit changed (R173). -/
def writeBack (s t : State) : Status × State :=
  sendFrame t s.cfg.cfgClass s.cfg.cfgId (setFormat (t.framePayload cfgLen) s.formatBit s.opnd.argOn)

theorem setfmtCommand_eq_onSuccess (s : State) :
    setfmtCommand s =
      onSuccess (exchange s s.cfg.cfgClass s.cfg.cfgId [] s.cfg.cfgClass s.cfg.cfgId cfgLen) fun t =>
        (writeBack s t).2.finish (writeBack s t).1 := rfl

theorem applyrstCommand_eq (s : State) :
    applyrstCommand s =
      (sendFrame s s.cfg.rstClass s.cfg.rstId s.resetPayload).2.finish
        (sendFrame s s.cfg.rstClass s.cfg.rstId s.resetPayload).1 := rfl

theorem sendFrame_of_overflow {s : State} {p : Bytes} (cls id : Byte) (h : s.cfg.maxFrame < 8 + p.length) :
    sendFrame s cls id p = (.encodeOverflow, s) := by rw [sendFrame_eq, if_pos h]

theorem sendFrame_of_fits {s : State} {p : Bytes} (cls id : Byte) (h : ¬s.cfg.maxFrame < 8 + p.length) :
    sendFrame s cls id p =
      (if s.env.draw.accepts < 8 + p.length then .transmitFailed else .success,
        { s with
          fb := s.fb.writeRange 0 (frameBytes cls id p)
          env := (tWrite s.env (frameBytes cls id p)).2 }) := by rw [sendFrame_eq, if_neg h]

/-- An exchange whose request is sent whole is the decoding of its response (R170). -/
theorem exchange_of_complete {s : State} {p : Bytes} (cls id ecls eid : Byte) (len : Nat)
    (h : ¬s.cfg.maxFrame < 8 + p.length) (ha : ¬s.env.draw.accepts < 8 + p.length) :
    exchange s cls id p ecls eid len =
      decodeFrame
        { s with
          fb := s.fb.writeRange 0 (frameBytes cls id p)
          env := (tWrite s.env (frameBytes cls id p)).2 } ecls eid len := by
  rw [exchange_eq, if_neg h, if_neg ha]

/-- A poll that publishes the run (R153). -/
theorem pollCommand_of_published {s : State} (h : s.env.rxq = []) (hc : 0 < s.lbCursor) (hi : 1 ≤ s.idleCount)
    (hd : s.lb.read 0 = dollar ∧ s.lb.read (s.lbCursor - 1) = newline) :
    pollCommand s =
      { s with
        cb := s.cb.writeRange 0 (spaceBytes s.lb 0 s.lbCursor)
        cbLen := s.lbCursor
        event := .published
        env := (tBuffered s.env).2
        idleCount := 0
        lbCursor := 0
        status := .success } := by
  rw [pollCommand_of_flush s h hc hi,
    if_pos (show s.lb.read 0 = 0x24 ∧ s.lb.read (s.lbCursor - 1) = 0x0A from hd)]

/-- A poll that drops the run (R154). -/
theorem pollCommand_of_dropped {s : State} (h : s.env.rxq = []) (hc : 0 < s.lbCursor) (hi : 1 ≤ s.idleCount)
    (hd : ¬(s.lb.read 0 = dollar ∧ s.lb.read (s.lbCursor - 1) = newline)) :
    pollCommand s =
      { s with
        event := .dropped
        env := (tBuffered s.env).2
        idleCount := 0
        lbCursor := 0
        status := .success } := by
  rw [pollCommand_of_flush s h hc hi,
    if_neg (show ¬(s.lb.read 0 = 0x24 ∧ s.lb.read (s.lbCursor - 1) = 0x0A) from hd)]

/-! ### The frames of the procedures -/

theorem decodeFrame_frame (s : State) (cls id : Byte) (len : Nat) :
    (decodeFrame s cls id len).2 =
      { s with
        fb := (decodeFrame s cls id len).2.fb
        env := (decodeFrame s cls id len).2.env
        session := (decodeFrame s cls id len).2.session } := by
  rw [decodeFrame_eq]

theorem exchange_frame (s : State) (cls id : Byte) (p : Bytes) (ecls eid : Byte) (len : Nat) :
    (exchange s cls id p ecls eid len).2 =
      { s with
        fb := (exchange s cls id p ecls eid len).2.fb
        env := (exchange s cls id p ecls eid len).2.env
        session := (exchange s cls id p ecls eid len).2.session } := by
  rw [exchange_eq]
  split_ifs
  · rfl
  · rfl
  · rw [decodeFrame_eq]

end Sys2Proof.Machine

/-! ## The invariant, part by part

`State.Good` speaks of each byte space and of the line collector apart; so each part is kept by the operations that reach
it, and the step only puts the parts together. -/

namespace Sys2Proof.Machine

/-- A byte space in its canonical form, listed below its size only (R60, R65). -/
structure Memory.Fits (m : Memory) (size : Nat) : Prop where
  wf : m.wf = true
  below : m.below size = true

theorem Memory.fits_nil (size : Nat) : Memory.Fits [] size := ⟨rfl, rfl⟩

theorem Memory.Fits.write {m : Memory} {size i : Nat} (b : Byte) (h : m.Fits size) (hi : i < size) :
    (m.write i b).Fits size :=
  ⟨Memory.wf_write _ _ _ h.wf, Memory.below_write _ _ _ _ h.below hi⟩

theorem Memory.Fits.writeRange {m : Memory} {size i : Nat} {s : Bytes} (h : m.Fits size) (hs : i + s.length ≤ size) :
    (m.writeRange i s).Fits size :=
  ⟨Memory.wf_writeRange _ _ _ h.wf, Memory.below_writeRange _ _ _ _ h.below hs⟩

theorem Memory.Fits.copyOut {pout : Memory} (s : Bytes) (h : pout.Fits 65535) : (pout.copyOut s).Fits 65535 :=
  ⟨Memory.wf_copyOut _ _ h.wf, Memory.below_copyOut _ _ h.below⟩

/-- The line collector of R28 to R30 and R160, in terms of the components it reads. -/
structure LineGood (capacity : Nat) (lb : Memory) (cursor idle : Nat) (cb : Memory) (len : Nat) : Prop where
  lineFits : lb.Fits capacity
  completedFits : cb.Fits capacity
  cursor_le : cursor ≤ capacity
  idle_le : idle ≤ 2
  len_le : len ≤ capacity
  sentence : 0 < len → 2 ≤ len ∧ cb.read 0 = dollar ∧ cb.read (len - 1) = newline
  accumulating : 0 < cursor → idle ≤ 1

/-- An empty collector with nothing pending is good. -/
theorem lineGood_empty (capacity : Nat) : LineGood capacity [] 0 0 [] 0 :=
  ⟨Memory.fits_nil _, Memory.fits_nil _, Nat.zero_le _, Nat.zero_le _, Nat.zero_le _,
    fun h => absurd h (lt_irrefl 0), fun h => absurd h (lt_irrefl 0)⟩

/-- The line collector of a state. -/
def State.CollectorFits (s : State) : Prop :=
  LineGood s.cfg.lineCapacity s.lb s.lbCursor s.idleCount s.cb s.cbLen

/-- The parts of the invariant. -/
theorem State.good_iff (s : State) :
    s.Good ↔ s.fb.Fits s.cfg.maxFrame ∧ s.CollectorFits ∧ s.pin.Fits 65535 ∧ s.pout.Fits 65535 := by
  constructor
  · rintro ⟨hcan, hbnd, hcol⟩
    exact ⟨⟨hcan.fb, hbnd.fb⟩,
      ⟨⟨hcan.lb, hbnd.lb⟩, ⟨hcan.cb, hbnd.cb⟩, hcol.cursor, hcol.idle, hcol.completed, hcol.sentence,
        hcol.accumulating⟩,
      ⟨hcan.pin, hbnd.pin⟩, ⟨hcan.pout, hbnd.pout⟩⟩
  · rintro ⟨hfb, hline, hpin, hpout⟩
    exact ⟨⟨hfb.wf, hline.lineFits.wf, hline.completedFits.wf, hpin.wf, hpout.wf⟩,
      ⟨hfb.below, hline.lineFits.below, hline.completedFits.below, hpin.below, hpout.below⟩,
      ⟨hline.cursor_le, hline.idle_le, hline.len_le, hline.sentence, hline.accumulating⟩⟩

/-! ### The frame buffer -/

/-- A response is no longer than the frame asked for (R67). -/
theorem length_responseBytes_le (e : Env) (s : State) (len : Nat) : (responseBytes e s len).length ≤ 8 + len :=
  tReadExact_length_le _ _ _

/-- EncodeFrame then Transmit writes FB inside its size: an overflow is refused first (R130). -/
theorem sendFrame_fits {s : State} (cls id : Byte) (p : Bytes) (h : s.fb.Fits s.cfg.maxFrame) :
    (sendFrame s cls id p).2.fb.Fits s.cfg.maxFrame := by
  rw [sendFrame_eq]
  split
  · exact h
  · exact h.writeRange (by rw [length_frameBytes]; omega)

/-- DecodeFrame writes FB inside its size when the expected frame fits (R133, R193). -/
theorem decodeFrame_fits {s : State} (cls id : Byte) {len : Nat} (h : s.fb.Fits s.cfg.maxFrame)
    (hlen : 8 + len ≤ s.cfg.maxFrame) : (decodeFrame s cls id len).2.fb.Fits s.cfg.maxFrame := by
  rw [decodeFrame_eq]
  have hr := length_responseBytes_le s.env s len
  exact h.writeRange (by omega)

theorem exchange_fits {s : State} (cls id : Byte) (p : Bytes) (ecls eid : Byte) {len : Nat}
    (h : s.fb.Fits s.cfg.maxFrame) (hlen : 8 + len ≤ s.cfg.maxFrame) :
    (exchange s cls id p ecls eid len).2.fb.Fits s.cfg.maxFrame := by
  rw [exchange_eq]
  split_ifs with hover
  · exact h
  all_goals have hsent := h.writeRange (i := 0) (s := frameBytes cls id p) (by rw [length_frameBytes]; omega)
  · exact hsent
  · exact decodeFrame_fits _ _ hsent hlen

theorem encodeCommand_fits {s : State} (h : s.fb.Fits s.cfg.maxFrame) :
    (encodeCommand s).fb.Fits s.cfg.maxFrame := by
  by_cases hover : s.cfg.maxFrame < 8 + s.argPayload.length
  · rw [encodeCommand_of_overflow hover]; exact h
  · rw [encodeCommand_of_fits hover]; exact h.writeRange (by rw [length_frameBytes]; omega)

theorem decodeCommandBody_fits {s : State} (h : s.fb.Fits s.cfg.maxFrame) (ok : s.expectationFits = true) :
    (decodeCommandBody s).fb.Fits s.cfg.maxFrame := by
  have hf := decodeFrame_fits s.opnd.expClass s.opnd.expId h ((expectationFits_iff s).1 ok)
  rw [decodeCommandBody_eq_onSuccess]
  exact onSuccess_cases (P := fun t => t.fb.Fits _) (fun _ => hf) fun _ => hf

theorem reqrespCommand_fits {s : State} (h : s.fb.Fits s.cfg.maxFrame) (ok : s.expectationFits = true) :
    (reqrespCommand s).fb.Fits s.cfg.maxFrame := by
  have hf := exchange_fits s.opnd.argClass s.opnd.argId s.argPayload s.opnd.expClass s.opnd.expId h
    ((expectationFits_iff s).1 ok)
  rw [reqrespCommand_eq_onSuccess]
  exact onSuccess_cases (P := fun t => t.fb.Fits _) (fun _ => hf) fun _ => hf

theorem getfixCommand_fits {s : State} (h : s.fb.Fits s.cfg.maxFrame) :
    (getfixCommand s).fb.Fits s.cfg.maxFrame := by
  have hmax := s.cfg.maxFrame_ge
  have hf := exchange_fits (len := navLen) navClass navId [] navClass navId h (by rw [navLen]; omega)
  rw [getfixCommand_eq_onSuccess]
  exact onSuccess_cases (P := fun t => t.fb.Fits _) (fun _ => hf) fun _ => hf

theorem setfmtCommand_fits {s : State} (h : s.fb.Fits s.cfg.maxFrame) :
    (setfmtCommand s).fb.Fits s.cfg.maxFrame := by
  have hmax := s.cfg.maxFrame_ge
  have hf := exchange_fits (len := cfgLen) s.cfg.cfgClass s.cfg.cfgId [] s.cfg.cfgClass s.cfg.cfgId h
    (by rw [cfgLen]; omega)
  have hcfg : (exchange s s.cfg.cfgClass s.cfg.cfgId [] s.cfg.cfgClass s.cfg.cfgId cfgLen).2.cfg = s.cfg := by
    rw [exchange_frame]
  rw [setfmtCommand_eq_onSuccess]
  generalize exchange s s.cfg.cfgClass s.cfg.cfgId [] s.cfg.cfgClass s.cfg.cfgId cfgLen = ended at hf hcfg
  refine onSuccess_cases (P := fun t => t.fb.Fits _) (fun _ => ?_) fun _ => hf
  rw [← hcfg] at hf ⊢
  exact sendFrame_fits _ _ _ hf

/-- Every row writes FB inside its size (R65). -/
theorem exec_keeps_fb {i : Instr} {s t : State} (h : exec i s = .next t) (hs : s.fb.Fits s.cfg.maxFrame) :
    t.fb.Fits s.cfg.maxFrame := by
  have mode : ∀ {m : Mode} {body : State → State}, (body s).fb.Fits s.cfg.maxFrame →
      (whenMode m body s).fb.Fits s.cfg.maxFrame := fun hb => whenMode_cases (P := fun t => t.fb.Fits _) hs hb
  have operand : ∀ {ok : State → Bool} {body : State → State}, (ok s = true → (body s).fb.Fits s.cfg.maxFrame) →
      (whenOperand ok body s).fb.Fits s.cfg.maxFrame := fun hb => whenOperand_cases (P := fun t => t.fb.Fits _) hs hb
  have frame := exec_frame i s t h
  cases i
  case encode => injection h with h; subst h; exact encodeCommand_fits hs
  case decode => injection h with h; subst h; exact mode (operand (decodeCommandBody_fits hs))
  case reqresp => injection h with h; subst h; exact mode (operand (reqrespCommand_fits hs))
  case getfix => injection h with h; subst h; exact mode (getfixCommand_fits hs)
  case setfmt => injection h with h; subst h; exact mode (operand fun _ => setfmtCommand_fits hs)
  case applyrst => injection h with h; subst h; exact mode (sendFrame_fits _ _ _ hs)
  all_goals (rw [frame]; exact hs)

/-! ### The line collector -/

@[simp] theorem length_spaceBytes (m : Memory) (i n : Nat) : (spaceBytes m i n).length = n := by simp [spaceBytes]

theorem getD_spaceBytes (m : Memory) {n k : Nat} (h : k < n) : (spaceBytes m 0 n).getD k 0 = m.read k := by
  rw [← Memory.readRange_eq_spaceBytes, Memory.getD_readRange _ _ _ _ h, Nat.zero_add]

/-- A published run is a sentence: it begins with `$` and ends with newline, so it has at least two bytes (R153). -/
theorem lineGood_published {capacity : Nat} {lb : Memory} {cursor idle : Nat} {cb : Memory} {len : Nat}
    (h : LineGood capacity lb cursor idle cb len) (hpos : 0 < cursor) (hfirst : lb.read 0 = dollar)
    (hlast : lb.read (cursor - 1) = newline) :
    LineGood capacity lb 0 0 (cb.writeRange 0 (spaceBytes lb 0 cursor)) cursor := by
  have hlen := length_spaceBytes lb 0 cursor
  have hread : ∀ k, k < cursor → (cb.writeRange 0 (spaceBytes lb 0 cursor)).read k = lb.read k := fun k hk => by
    have hin := Memory.read_writeRange_inside cb 0 k (spaceBytes lb 0 cursor) (by omega)
    rwa [getD_spaceBytes _ hk, Nat.zero_add] at hin
  have htwo : cursor ≠ 1 := fun hone => by
    rw [hone, hfirst] at hlast
    exact absurd hlast (by decide)
  exact ⟨h.lineFits, h.completedFits.writeRange (by rw [hlen]; have := h.cursor_le; omega), Nat.zero_le _, Nat.zero_le _,
    h.cursor_le, fun _ => ⟨by omega, by rw [hread 0 hpos, hfirst], by rw [hread _ (by omega), hlast]⟩,
    fun habs => absurd habs (lt_irrefl 0)⟩

/-- A collector whose cursor and counter went to zero (R154, R158). -/
theorem LineGood.emptied {capacity : Nat} {lb : Memory} {cursor idle : Nat} {cb : Memory} {len : Nat}
    (h : LineGood capacity lb cursor idle cb len) : LineGood capacity lb 0 0 cb len :=
  { h with
    cursor_le := Nat.zero_le _, idle_le := Nat.zero_le _, accumulating := fun habs => absurd habs (lt_irrefl 0) }

theorem pollCommand_keeps_collector {s : State} (h : s.CollectorFits) : (pollCommand s).CollectorFits := by
  by_cases h0 : s.env.rxq = []
  · by_cases h1 : s.lbCursor = 0 ∨ s.idleCount = 0
    · rw [pollCommand_of_empty s h0 h1]
      exact { h with idle_le := Nat.min_le_right _ _, accumulating := fun hc => by dsimp only at hc ⊢; omega }
    · by_cases hd : s.lb.read 0 = dollar ∧ s.lb.read (s.lbCursor - 1) = newline
      · rw [pollCommand_of_published h0 (by omega) (by omega) hd]
        exact lineGood_published h (by omega) hd.1 hd.2
      · rw [pollCommand_of_dropped h0 (by omega) (by omega) hd]
        exact LineGood.emptied h
  · have hpos : 0 < s.env.rxq.length := List.length_pos_of_ne_nil h0
    by_cases h1 : s.lbCursor + s.env.rxq.length ≤ s.cfg.lineCapacity
    · rw [pollCommand_of_bytes s hpos h1]
      exact { h with
        lineFits := h.lineFits.writeRange h1, cursor_le := h1, idle_le := Nat.zero_le _
        accumulating := fun _ => Nat.zero_le _ }
    · rw [pollCommand_of_excess s hpos (by omega)]
      exact { h with idle_le := Nat.zero_le _, accumulating := fun _ => Nat.zero_le _ }

theorem rdsentCommand_keeps_collector {s : State} (h : s.CollectorFits) : (rdsentCommand s).CollectorFits :=
  { h with len_le := Nat.zero_le _, sentence := fun habs => absurd habs (lt_irrefl 0) }

/-- Every row keeps the line collector good. -/
theorem exec_keeps_collector {i : Instr} {s t : State} (h : exec i s = .next t) (hs : s.CollectorFits) :
    t.CollectorFits := by
  have frame := exec_frame i s t h
  cases i
  case poll =>
    injection h with h; subst h
    exact whenMode_cases (P := State.CollectorFits) hs (pollCommand_keeps_collector hs)
  case rdsent =>
    injection h with h; subst h
    exact whenMode_cases (P := State.CollectorFits) hs (rdsentCommand_keeps_collector hs)
  case lcreset =>
    injection h with h; subst h
    exact whenMode_cases (P := State.CollectorFits) hs (LineGood.emptied hs)
  all_goals (rw [frame]; exact hs)

/-! ### What no row writes -/

/-- No row writes an operand register, MODE, PIN, a parameter or the host's side (R21, R25, R33, R35). -/
theorem exec_keeps_host_owned {i : Instr} {s t : State} (h : exec i s = .next t) :
    t.opnd = s.opnd ∧ t.mode = s.mode ∧ t.pin = s.pin ∧ t.cfg = s.cfg ∧ t.host = s.host := by
  have frame := exec_frame i s t h
  cases i
  all_goals (rw [frame]; exact ⟨rfl, rfl, rfl, rfl, rfl⟩)

/-! ### The step -/

theorem exec_keeps_good {i : Instr} {s t : State} (h : exec i s = .next t) (hs : s.Good) : t.Good := by
  obtain ⟨hfb, hline, hpin, hpout⟩ := (State.good_iff s).1 hs
  obtain ⟨-, -, htpin, htcfg, -⟩ := exec_keeps_host_owned h
  refine (State.good_iff t).2 ⟨?_, exec_keeps_collector h hline, ?_, ?_⟩
  · rw [htcfg]; exact exec_keeps_fb h hfb
  · rw [htpin]; exact hpin
  · rw [exec_pout i s t h]; exact hpout.copyOut _

/-- A state that differs from a good one in no component the invariant reads is good. -/
theorem State.Good.congr {s t : State} (hs : s.Good)
    (h : (t.cfg, t.fb, t.lb, t.lbCursor, t.idleCount, t.cb, t.cbLen, t.pin, t.pout) =
      (s.cfg, s.fb, s.lb, s.lbCursor, s.idleCount, s.cb, s.cbLen, s.pin, s.pout)) : t.Good := by
  simp only [Prod.mk.injEq] at h
  obtain ⟨h1, h2, h3, h4, h5, h6, h7, h8, h9⟩ := h
  rw [State.good_iff, State.CollectorFits, h1, h2, h3, h4, h5, h6, h7, h8, h9]
  exact (State.good_iff s).1 hs

theorem hostWrite_keeps_good {s : State} (w : HostWrite) (hs : s.Good) : (s.hostWrite w).Good := by
  obtain ⟨hfb, hline, hpin, hpout⟩ := (State.good_iff s).1 hs
  cases w
  case pin i b => exact (State.good_iff _).2 ⟨hfb, hline, hpin.write b i.isLt, hpout⟩
  case pout i b => exact (State.good_iff _).2 ⟨hfb, hline, hpin, hpout.write b i.isLt⟩
  all_goals exact hs.congr rfl

/-- A reset empties every space of the block and keeps the host's two (R36, R230). -/
theorem hardwareReset_good {s : State} (strap : Mode) (hpin : s.pin.Fits 65535) (hpout : s.pout.Fits 65535) :
    (hardwareReset strap s).Good :=
  (State.good_iff _).2 ⟨Memory.fits_nil _, lineGood_empty _, hpin, hpout⟩

theorem copiedAfter_fits {s : State} (i : Instr) (calls copied : Nat) (h : s.pout.Fits 65535) :
    (copiedAfter i s calls copied).Fits 65535 := by
  unfold copiedAfter; split
  · exact h.copyOut _
  · exact h

/-- Every move keeps the invariant. -/
theorem moved_keeps_good {s t : State} {input : Input} (h : Moved s input t) (hs : s.Good) : t.Good := by
  obtain ⟨-, -, hpin, hpout⟩ := (State.good_iff s).1 hs
  cases h
  case idle => exact hs
  case write w => exact hostWrite_keeps_good w hs
  case issue opc run => exact exec_keeps_good run (hs.congr rfl)
  case read p => exact hs.congr rfl
  case arrive bytes => exact hs.congr rfl
  case reset strap => exact hardwareReset_good strap hpin hpout
  case abandon opc calls copied strap => exact hardwareReset_good strap hpin (copiedAfter_fits _ _ _ hpout)

theorem afterInput_keeps_good {s : State} (hs : s.Good) : s.afterInput.Good := by
  rw [afterInput_frame]; exact hs.congr rfl

/-- Settles O59: a step is one of seven moves, and each keeps every part of the invariant. -/
theorem everyStepKeepsGood : Obligations.EveryStepKeepsGood := fun _ _ hs h =>
  moved_keeps_good (step_moved h) (afterInput_keeps_good hs)

/-- Settles O58: reset leaves every space empty and the collector idle with nothing pending. -/
theorem resetStateIsGood : Obligations.ResetStateIsGood :=
  hardwareReset_good (s := State.reset) .framed (Memory.fits_nil _) (Memory.fits_nil _)

/-- Settles O37, from the frame of every row. -/
theorem blockNeverWritesOperandsOrMode : Obligations.BlockNeverWritesOperandsOrMode := fun _ _ _ h =>
  exec_keeps_host_owned h

end Sys2Proof.Machine

/-! ## Leftovers

That leftovers are never read (R26, R27, R28, R30, R176) is proved procedure by procedure: from two states that are the
same but for leftovers, each gives the same answer and two such states. While a command runs no frame is delivered
(R27, log 9), so inside a command FB counts as a leftover whole. -/

namespace Sys2Proof.Machine

theorem SameButLeftovers.refl (s : State) : SameButLeftovers s s :=
  ⟨rfl, fun _ _ => rfl, fun _ _ => rfl, fun _ _ _ => rfl⟩

/-- A state with other contents of FB, the ReceiveSession, LB and CB. -/
def State.withLeftovers (s : State) (fb : Memory) (session : ReceiveSession) (lb cb : Memory) : State :=
  { s with fb := fb, session := session, lb := lb, cb := cb }

/-- Two such states, as one state and the leftovers of the other. -/
theorem SameButLeftovers.exists_eq {s t : State} (h : SameButLeftovers s t) :
    ∃ fb session lb cb, t = s.withLeftovers fb session lb cb ∧
      (∀ k, k < s.lbCursor → lb.read k = s.lb.read k) ∧ (∀ k, k < s.cbLen → cb.read k = s.cb.read k) ∧
      (s.frameReady = true → ∀ k, k < s.resLen → fb.read k = s.fb.read k) :=
  ⟨t.fb, t.session, t.lb, t.cb, h.rest, h.line, h.completed, h.frame⟩

/-- With no frame delivered, nothing of FB is visible. -/
theorem SameButLeftovers.of_undelivered {s t : State} (hr : s.frameReady = false)
    (rest : t = { s with fb := t.fb, session := t.session, lb := t.lb, cb := t.cb })
    (line : ∀ k, k < s.lbCursor → t.lb.read k = s.lb.read k)
    (completed : ∀ k, k < s.cbLen → t.cb.read k = s.cb.read k) : SameButLeftovers s t :=
  ⟨rest, line, completed, fun h => by rw [hr] at h; cases h⟩

theorem SameButLeftovers.finish {s t : State} (h : SameButLeftovers s t) (st : Status) :
    SameButLeftovers (s.finish st) (t.finish st) := by
  obtain ⟨fb, session, lb, cb, rfl, hl, hc, hf⟩ := h.exists_eq
  exact ⟨rfl, hl, hc, hf⟩

theorem SameButLeftovers.whenMode {s t : State} (h : SameButLeftovers s t) (m : Mode) {body : State → State}
    (accepted : SameButLeftovers (body s) (body t)) :
    SameButLeftovers (Machine.whenMode m body s) (Machine.whenMode m body t) := by
  have hmode : t.mode = s.mode := by rw [h.rest]
  unfold Machine.whenMode
  rw [hmode]
  split
  · exact accepted
  · exact h.finish _

theorem SameButLeftovers.whenOperand {s t : State} (h : SameButLeftovers s t) {ok : State → Bool}
    {body : State → State} (hok : ok t = ok s) (accepted : SameButLeftovers (body s) (body t)) :
    SameButLeftovers (Machine.whenOperand ok body s) (Machine.whenOperand ok body t) := by
  unfold Machine.whenOperand
  rw [hok]
  split
  · exact accepted
  · exact h.finish _

/-- The same range write makes two spaces agree wherever it reaches. -/
theorem Memory.read_writeRange_congr {m m' : Memory} {i k : Nat} {s : Bytes}
    (h : ¬(i ≤ k ∧ k < i + s.length) → m'.read k = m.read k) :
    (m'.writeRange i s).read k = (m.writeRange i s).read k := by
  rw [Memory.read_writeRange, Memory.read_writeRange]
  split
  · rfl
  · rename_i hout; exact h hout

/-! ### The procedures of the codec -/

/-- Two endings of a procedure that a command cannot tell apart: the status, the state but for leftovers, and on Success
the payload of the frame that stands in FB. -/
structure SameEnding (x y : Status × State) (len : Nat) : Prop where
  status : y.1 = x.1
  state : SameButLeftovers x.2 y.2
  undelivered : x.2.frameReady = false
  payload : x.1 = .success → y.2.framePayload len = x.2.framePayload len

section
variable {s t : State} (h : SameButLeftovers s t) (hr : s.frameReady = false)
include h hr

theorem sendFrame_sameButLeftovers (cls id : Byte) (p : Bytes) :
    (sendFrame t cls id p).1 = (sendFrame s cls id p).1 ∧
      SameButLeftovers (sendFrame s cls id p).2 (sendFrame t cls id p).2 := by
  obtain ⟨fb, session, lb, cb, rfl, hl, hc, -⟩ := h.exists_eq
  by_cases hover : s.cfg.maxFrame < 8 + p.length
  · rw [sendFrame_of_overflow _ _ hover, sendFrame_of_overflow (s := s.withLeftovers fb session lb cb) _ _ hover]
    exact ⟨rfl, h⟩
  · rw [sendFrame_of_fits _ _ hover, sendFrame_of_fits (s := s.withLeftovers fb session lb cb) _ _ hover]
    exact ⟨rfl, .of_undelivered hr rfl hl hc⟩

theorem decodeFrame_sameEnding (cls id : Byte) (len : Nat) :
    SameEnding (decodeFrame s cls id len) (decodeFrame t cls id len) len := by
  obtain ⟨fb, session, lb, cb, rfl, hl, hc, -⟩ := h.exists_eq
  rw [decodeFrame_eq, decodeFrame_eq]
  refine ⟨rfl, .of_undelivered hr rfl hl hc, hr, fun hok => ?_⟩
  have hlen : 8 + len ≤ (responseBytes s.env s len).length :=
    length_of_not_shortRead (cls := cls) (id := id) (by dsimp only at hok; rw [hok]; decide)
  exact (readRange_payload _ _ _ hlen).trans (readRange_payload _ _ _ hlen).symm

theorem exchange_sameEnding (cls id : Byte) (p : Bytes) (ecls eid : Byte) (len : Nat) :
    SameEnding (exchange s cls id p ecls eid len) (exchange t cls id p ecls eid len) len := by
  obtain ⟨fb, session, lb, cb, rfl, hl, hc, -⟩ := h.exists_eq
  by_cases hover : s.cfg.maxFrame < 8 + p.length
  · rw [exchange_of_overflow _ _ _ _ _ hover,
      exchange_of_overflow (s := s.withLeftovers fb session lb cb) _ _ _ _ _ hover]
    exact ⟨rfl, h, hr, nofun⟩
  by_cases hpart : s.env.draw.accepts < 8 + p.length
  · rw [exchange_of_partial _ _ _ _ _ hover hpart,
      exchange_of_partial (s := s.withLeftovers fb session lb cb) _ _ _ _ _ hover hpart]
    exact ⟨rfl, .of_undelivered hr rfl hl hc, hr, nofun⟩
  · rw [exchange_of_complete _ _ _ _ _ hover hpart,
      exchange_of_complete (s := s.withLeftovers fb session lb cb) _ _ _ _ _ hover hpart]
    refine decodeFrame_sameEnding ?_ ?_ _ _ _
    · exact .of_undelivered hr rfl hl hc
    · exact hr

end

/-- A command that goes on alike from two endings it cannot tell apart. -/
theorem SameEnding.onSuccess {x y : Status × State} {len : Nat} (h : SameEnding x y len) {f g : State → State}
    (success : ∀ u v, SameButLeftovers u v → u.frameReady = false → v.framePayload len = u.framePayload len →
      SameButLeftovers (f u) (g v)) :
    SameButLeftovers (Machine.onSuccess x f) (Machine.onSuccess y g) := by
  obtain ⟨st, u⟩ := x
  obtain ⟨st', v⟩ := y
  obtain ⟨hst, hstate, hr, hpay⟩ := h
  dsimp only at hst hstate hr hpay
  subst hst
  cases st'
  case success => exact success u v hstate hr (hpay rfl)
  all_goals exact hstate.finish _

theorem SameEnding.deliveredBytes {x y : Status × State} {len : Nat} (h : SameEnding x y len) :
    deliveredBytes y len = deliveredBytes x len := by
  unfold Machine.deliveredBytes
  rw [h.status]
  split
  · rename_i hok; exact h.payload hok
  · rfl

theorem deliverPayload_sameButLeftovers {s t : State} (h : SameButLeftovers s t) (hr : s.frameReady = false) {len : Nat}
    (hpay : t.framePayload len = s.framePayload len) :
    SameButLeftovers (deliverPayload s len) (deliverPayload t len) := by
  unfold deliverPayload
  rw [hpay]
  obtain ⟨fb, session, lb, cb, rfl, hl, hc, -⟩ := h.exists_eq
  exact .of_undelivered hr rfl hl hc

/-! ### The commands -/

section
variable {s t : State} (h : SameButLeftovers s t)
include h

theorem expectationFits_sameButLeftovers : t.expectationFits = s.expectationFits := by rw [h.rest]; rfl

theorem formatBitLegal_sameButLeftovers : t.formatBitLegal = s.formatBitLegal := by rw [h.rest]; rfl

theorem peerDelivers_sameButLeftovers (bytes : Bytes) :
    SameButLeftovers (s.peerDelivers bytes) (t.peerDelivers bytes) := by
  obtain ⟨fb, session, lb, cb, rfl, hl, hc, hf⟩ := h.exists_eq
  exact ⟨rfl, hl, hc, hf⟩

theorem pendingSentence_sameButLeftovers : t.cb.readRange 0 t.cbLen = s.cb.readRange 0 s.cbLen := by
  obtain ⟨fb, session, lb, cb, rfl, -, hc, -⟩ := h.exists_eq
  exact Memory.readRange_congr _ _ _ _ fun k (hk : k < s.cbLen) => hc _ (by omega)

/-- The frame ENCODE delivers is built of the operands and PIN alone (R130, R131). -/
theorem encodeCommand_sameButLeftovers : SameButLeftovers (encodeCommand s) (encodeCommand t) := by
  obtain ⟨fb, session, lb, cb, rfl, hl, hc, -⟩ := h.exists_eq
  by_cases hover : s.cfg.maxFrame < 8 + s.argPayload.length
  · rw [encodeCommand_of_overflow hover,
      encodeCommand_of_overflow (s := s.withLeftovers fb session lb cb) hover]
    exact h.finish _
  · rw [encodeCommand_of_fits hover, encodeCommand_of_fits (s := s.withLeftovers fb session lb cb) hover]
    refine ⟨rfl, hl, hc, fun _ k (hk : k < 8 + s.argPayload.length) => ?_⟩
    exact Memory.read_writeRange_congr (s := frameBytes s.opnd.argClass s.opnd.argId s.argPayload) fun hout =>
      absurd ⟨Nat.zero_le k, by rw [length_frameBytes]; omega⟩ hout

end

section
variable {s t : State} (h : SameButLeftovers s t) (hr : s.frameReady = false)
include h hr

theorem cksumCommand_sameButLeftovers : SameButLeftovers (cksumCommand s) (cksumCommand t) := by
  obtain ⟨fb, session, lb, cb, rfl, hl, hc, -⟩ := h.exists_eq
  exact .of_undelivered hr rfl hl hc

theorem decodeCommandBody_sameButLeftovers : SameButLeftovers (decodeCommandBody s) (decodeCommandBody t) := by
  have hopnd : t.opnd = s.opnd := by rw [h.rest]
  simp only [decodeCommandBody_eq_onSuccess, State.expLength, hopnd]
  exact (decodeFrame_sameEnding h hr _ _ _).onSuccess fun u v huv hu hpay =>
    (deliverPayload_sameButLeftovers huv hu hpay).finish _

theorem reqrespCommand_sameButLeftovers : SameButLeftovers (reqrespCommand s) (reqrespCommand t) := by
  have hopnd : t.opnd = s.opnd := by rw [h.rest]
  have hpin : t.pin = s.pin := by rw [h.rest]
  simp only [reqrespCommand_eq_onSuccess, State.expLength, argPayload_eq, hopnd, hpin]
  exact (exchange_sameEnding h hr _ _ _ _ _ _).onSuccess fun u v huv hu hpay =>
    (deliverPayload_sameButLeftovers huv hu hpay).finish _

theorem getfixCommand_sameButLeftovers : SameButLeftovers (getfixCommand s) (getfixCommand t) := by
  simp only [getfixCommand_eq_onSuccess]
  refine (exchange_sameEnding h hr _ _ _ _ _ _).onSuccess fun u v huv hu hpay => ?_
  rw [hpay]
  obtain ⟨fb, session, lb, cb, rfl, hl, hc, -⟩ := huv.exists_eq
  exact .of_undelivered hu rfl hl hc

theorem setfmtCommand_sameButLeftovers : SameButLeftovers (setfmtCommand s) (setfmtCommand t) := by
  have hopnd : t.opnd = s.opnd := by rw [h.rest]
  have hcfg : t.cfg = s.cfg := by rw [h.rest]
  simp only [setfmtCommand_eq_onSuccess, hcfg]
  refine (exchange_sameEnding h hr _ _ _ _ _ _).onSuccess fun u v huv hu hpay => ?_
  unfold writeBack State.formatBit
  rw [hpay, hopnd, hcfg]
  obtain ⟨hst, hstate⟩ := sendFrame_sameButLeftovers huv hu s.cfg.cfgClass s.cfg.cfgId
    (setFormat (u.framePayload cfgLen) s.opnd.argFmt.toNat s.opnd.argOn)
  rw [hst]
  exact hstate.finish _

theorem applyrstCommand_sameButLeftovers : SameButLeftovers (applyrstCommand s) (applyrstCommand t) := by
  have hopnd : t.opnd = s.opnd := by rw [h.rest]
  have hcfg : t.cfg = s.cfg := by rw [h.rest]
  obtain ⟨hst, hstate⟩ := sendFrame_sameButLeftovers h hr s.cfg.rstClass s.cfg.rstId s.resetPayload
  unfold State.resetPayload at hst hstate
  simp only [applyrstCommand_eq, State.resetPayload, hopnd, hcfg, hst]
  exact hstate.finish _

/-- POLL reads LB below the cursor only, and what it adds or publishes it has just read (R150, R153). -/
theorem pollCommand_sameButLeftovers : SameButLeftovers (pollCommand s) (pollCommand t) := by
  obtain ⟨fb, session, lb, cb, rfl, hl, hc, -⟩ := h.exists_eq
  by_cases h0 : s.env.rxq = []
  · by_cases h1 : s.lbCursor = 0 ∨ s.idleCount = 0
    · rw [pollCommand_of_empty s h0 h1, pollCommand_of_empty (s.withLeftovers fb session lb cb) h0 h1]
      exact .of_undelivered hr rfl hl hc
    · have hcur : 0 < s.lbCursor := by omega
      have hidle : 1 ≤ s.idleCount := by omega
      have hrun : spaceBytes lb 0 s.lbCursor = spaceBytes s.lb 0 s.lbCursor := by
        rw [← Memory.readRange_eq_spaceBytes, ← Memory.readRange_eq_spaceBytes]
        exact Memory.readRange_congr _ _ _ _ fun k hk => hl _ (by omega)
      have hends : lb.read 0 = s.lb.read 0 ∧ lb.read (s.lbCursor - 1) = s.lb.read (s.lbCursor - 1) :=
        ⟨hl _ hcur, hl _ (by omega)⟩
      by_cases hd : s.lb.read 0 = dollar ∧ s.lb.read (s.lbCursor - 1) = newline
      · rw [pollCommand_of_published h0 hcur hidle hd,
          pollCommand_of_published (s := s.withLeftovers fb session lb cb) h0 hcur hidle
            (by rw [← hends.1, ← hends.2] at hd; exact hd)]
        refine .of_undelivered hr rfl nofun fun k hk => ?_
        dsimp only [State.withLeftovers] at hk ⊢
        rw [hrun]
        exact Memory.read_writeRange_congr fun hout => absurd ⟨Nat.zero_le k, by rw [length_spaceBytes]; omega⟩ hout
      · rw [pollCommand_of_dropped h0 hcur hidle hd,
          pollCommand_of_dropped (s := s.withLeftovers fb session lb cb) h0 hcur hidle
            (by rw [← hends.1, ← hends.2] at hd; exact hd)]
        exact .of_undelivered hr rfl nofun hc
  · have hpos : 0 < s.env.rxq.length := List.length_pos_of_ne_nil h0
    by_cases h1 : s.lbCursor + s.env.rxq.length ≤ s.cfg.lineCapacity
    · rw [pollCommand_of_bytes s hpos h1, pollCommand_of_bytes (s.withLeftovers fb session lb cb) hpos h1]
      refine .of_undelivered hr rfl (fun k hk => ?_) hc
      dsimp only [State.withLeftovers] at hk ⊢
      exact Memory.read_writeRange_congr fun hout => hl k (by omega)
    · have hover := Nat.lt_of_not_le h1
      rw [pollCommand_of_excess s hpos hover, pollCommand_of_excess (s.withLeftovers fb session lb cb) hpos hover]
      exact .of_undelivered hr rfl hl hc

theorem rdsentCommand_sameButLeftovers : SameButLeftovers (rdsentCommand s) (rdsentCommand t) := by
  unfold rdsentCommand
  rw [pendingSentence_sameButLeftovers h]
  obtain ⟨fb, session, lb, cb, rfl, hl, -, -⟩ := h.exists_eq
  exact .of_undelivered hr rfl hl nofun

theorem lcresetCommand_sameButLeftovers : SameButLeftovers (lcresetCommand s) (lcresetCommand t) := by
  obtain ⟨fb, session, lb, cb, rfl, -, hc, -⟩ := h.exists_eq
  exact .of_undelivered hr rfl nofun hc

/-- No row reads a leftover. -/
theorem exec_sameButLeftovers {i : Instr} {s' t' : State} (hs : exec i s = .next s') (ht : exec i t = .next t') :
    SameButLeftovers s' t' := by
  have hfits := expectationFits_sameButLeftovers h
  have hbit := formatBitLegal_sameButLeftovers h
  cases i <;> (injection hs with hs; injection ht with ht; subst hs; subst ht)
  case cksum => exact cksumCommand_sameButLeftovers h hr
  case encode => exact encodeCommand_sameButLeftovers h
  case decode => exact h.whenMode _ (h.whenOperand hfits (decodeCommandBody_sameButLeftovers h hr))
  case reqresp => exact h.whenMode _ (h.whenOperand hfits (reqrespCommand_sameButLeftovers h hr))
  case getfix => exact h.whenMode _ (getfixCommand_sameButLeftovers h hr)
  case setfmt => exact h.whenMode _ (h.whenOperand hbit (setfmtCommand_sameButLeftovers h hr))
  case applyrst => exact h.whenMode _ (applyrstCommand_sameButLeftovers h hr)
  case poll => exact h.whenMode _ (pollCommand_sameButLeftovers h hr)
  case rdsent => exact h.whenMode _ (rdsentCommand_sameButLeftovers h hr)
  case lcreset => exact h.whenMode _ (lcresetCommand_sameButLeftovers h hr)
  case illegal => exact h.finish _
  all_goals exact peerDelivers_sameButLeftovers h _

end

/-! ### A reset in the middle of a command -/

section
variable {s t : State} (h : SameButLeftovers s t)
include h

theorem sendPoints_sameButLeftovers (cls id : Byte) (p : Bytes) : sendPoints t cls id p = sendPoints s cls id p := by
  obtain ⟨fb, session, lb, cb, rfl, -, -, -⟩ := h.exists_eq
  rw [sendPoints_eq, sendPoints_eq]; rfl

theorem exchangePoints_sameButLeftovers (cls id : Byte) (p : Bytes) (len : Nat) :
    exchangePoints t cls id p len = exchangePoints s cls id p len := by
  obtain ⟨fb, session, lb, cb, rfl, -, -, -⟩ := h.exists_eq
  rw [exchangePoints_eq, exchangePoints_eq]; rfl

end

/-- The transport call of the second half of SETFMT (R173). -/
def writeBackPoints (s : State) (ended : Status × State) : List Env :=
  match ended with
  | (.success, t) =>
    sendPoints t s.cfg.cfgClass s.cfg.cfgId (setFormat (t.framePayload cfgLen) s.formatBit s.opnd.argOn)
  | (_, _) => []

theorem SameEnding.writeBackPoints (s : State) {x y : Status × State} (h : SameEnding x y cfgLen) :
    writeBackPoints s y = writeBackPoints s x := by
  obtain ⟨st, u⟩ := x
  obtain ⟨st', v⟩ := y
  obtain ⟨hst, hstate, -, hpay⟩ := h
  dsimp only at hst hstate hpay
  subst hst
  cases st'
  case success =>
    unfold Machine.writeBackPoints
    dsimp only
    rw [hpay rfl]
    exact sendPoints_sameButLeftovers hstate _ _ _
  all_goals rfl

theorem setfmtPoints_eq_append (s : State) :
    setfmtPoints s =
      exchangePoints s s.cfg.cfgClass s.cfg.cfgId [] cfgLen ++
        writeBackPoints s (exchange s s.cfg.cfgClass s.cfg.cfgId [] s.cfg.cfgClass s.cfg.cfgId cfgLen) := rfl

section
variable {s t : State} (h : SameButLeftovers s t) (hr : s.frameReady = false)
include h hr

theorem setfmtPoints_sameButLeftovers : setfmtPoints t = setfmtPoints s := by
  have hx := exchange_sameEnding h hr s.cfg.cfgClass s.cfg.cfgId [] s.cfg.cfgClass s.cfg.cfgId cfgLen
  obtain ⟨fb, session, lb, cb, rfl, -, -, -⟩ := h.exists_eq
  rw [setfmtPoints_eq_append, setfmtPoints_eq_append]
  exact congrArg₂ (· ++ ·) (exchangePoints_sameButLeftovers h _ _ _ _) (hx.writeBackPoints s)

/-- No transport call of a command depends on a leftover. -/
theorem transportPoints_sameButLeftovers (i : Instr) : transportPoints i t = transportPoints i s := by
  obtain ⟨fb, session, lb, cb, rfl, -, -, -⟩ := h.exists_eq
  cases i
  case reqresp => exact ite_congr rfl (fun _ => exchangePoints_sameButLeftovers h _ _ _ _) fun _ => rfl
  case getfix => exact ite_congr rfl (fun _ => exchangePoints_sameButLeftovers h _ _ _ _) fun _ => rfl
  case setfmt => exact ite_congr rfl (fun _ => setfmtPoints_sameButLeftovers h hr) fun _ => rfl
  case applyrst => exact ite_congr rfl (fun _ => sendPoints_sameButLeftovers h _ _ _) fun _ => rfl
  all_goals rfl

/-- Nor does what it copies to POUT. -/
theorem copiedBytes_sameButLeftovers (i : Instr) : copiedBytes i t = copiedBytes i s := by
  obtain ⟨fb, session, lb, cb, rfl, -, -, -⟩ := h.exists_eq
  cases i
  case decode => exact ite_congr rfl (fun _ => (decodeFrame_sameEnding h hr _ _ _).deliveredBytes) fun _ => rfl
  case reqresp => exact ite_congr rfl (fun _ => (exchange_sameEnding h hr _ _ _ _ _ _).deliveredBytes) fun _ => rfl
  case rdsent => exact ite_congr rfl (fun _ => pendingSentence_sameButLeftovers h) fun _ => rfl
  all_goals rfl

/-- A reset in the middle of a command discards the leftovers and shows none (R230, R36). -/
theorem abandonCommand_sameButLeftovers (i : Instr) (calls copied : Nat) (strap : Mode) :
    abandonCommand i calls copied strap t = abandonCommand i calls copied strap s := by
  unfold abandonCommand environmentAfter copiedAfter
  rw [transportPoints_sameButLeftovers h hr, copiedBytes_sameButLeftovers h hr]
  obtain ⟨fb, session, lb, cb, rfl, -, -, -⟩ := h.exists_eq
  rfl

end

/-! ### The step -/

section
variable {s t : State} (h : SameButLeftovers s t)
include h

theorem hostWrite_sameButLeftovers (w : HostWrite) : SameButLeftovers (s.hostWrite w) (t.hostWrite w) := by
  obtain ⟨fb, session, lb, cb, rfl, hl, hc, hf⟩ := h.exists_eq
  cases w <;> exact ⟨rfl, hl, hc, hf⟩

/-- The host reads no leftover: a byte of FB is defined below RES_LEN of a delivered frame only (R27). -/
theorem portValue_sameButLeftovers (p : HostPort) : t.portValue p = s.portValue p := by
  obtain ⟨fb, session, lb, cb, rfl, -, -, hf⟩ := h.exists_eq
  cases p
  case fb i =>
    refine ite_congr rfl (fun hdef => ?_) fun _ => rfl
    simp only [State.frameByteDefined, Bool.and_eq_true, decide_eq_true_eq] at hdef
    exact congrArg BitVec.toNat (hf hdef.1 i hdef.2)
  all_goals rfl

theorem hostRead_sameButLeftovers (p : HostPort) : SameButLeftovers (s.hostRead p) (t.hostRead p) := by
  unfold State.hostRead
  rw [portValue_sameButLeftovers h p]
  obtain ⟨fb, session, lb, cb, rfl, hl, hc, hf⟩ := h.exists_eq
  exact ⟨rfl, hl, hc, hf⟩

theorem startCommand_sameButLeftovers (opc : Byte) :
    SameButLeftovers (s.startCommand opc) (t.startCommand opc) := by
  obtain ⟨fb, session, lb, cb, rfl, hl, hc, -⟩ := h.exists_eq
  exact .of_undelivered rfl rfl hl hc

theorem hardwareReset_sameButLeftovers (strap : Mode) : hardwareReset strap t = hardwareReset strap s := by
  rw [h.rest]; rfl

theorem nextInput_sameButLeftovers : t.nextInput = s.nextInput := by rw [h.rest]; rfl

theorem afterInput_sameButLeftovers : SameButLeftovers s.afterInput t.afterInput := by
  obtain ⟨fb, session, lb, cb, rfl, hl, hc, hf⟩ := h.exists_eq
  unfold State.afterInput State.withLeftovers
  dsimp only
  split <;> exact ⟨rfl, hl, hc, hf⟩

/-- No move of the host or the peer tells two such states apart. -/
theorem moved_sameButLeftovers {input : Input} {s' t' : State} (hs : Moved s input s') (ht : Moved t input t') :
    SameButLeftovers s' t' := by
  have hcfg : t.cfg = s.cfg := by rw [h.rest]
  cases hs <;> cases ht
  case idle => exact h
  case write w => exact hostWrite_sameButLeftovers h w
  case issue opc hs ht => exact exec_sameButLeftovers (startCommand_sameButLeftovers h opc) rfl hs ht
  case read p => exact hostRead_sameButLeftovers h p
  case arrive bytes => rw [hcfg]; exact peerDelivers_sameButLeftovers h _
  case reset strap => rw [hardwareReset_sameButLeftovers h]; exact .refl _
  case abandon opc calls copied strap =>
    rw [abandonCommand_sameButLeftovers (startCommand_sameButLeftovers h opc) rfl]; exact .refl _

end

/-- Settles O42: a step takes the same move from both states, and none of the seven reads a leftover. -/
theorem leftoversAreNeverRead : Obligations.LeftoversAreNeverRead := fun s t s' t' h hs ht => by
  have ht := step_moved ht
  rw [nextInput_sameButLeftovers h] at ht
  exact moved_sameButLeftovers (afterInput_sameButLeftovers h) (step_moved hs) ht

end Sys2Proof.Machine

/-! ## The result registers

Who writes them and with which status (R22, R32, R60, R201): the status lists of the procedures, and that a command which
does not succeed leaves every result as it was. -/

namespace Sys2Proof.Machine

/-! ### The statuses a command ends with -/

/-- The rows of the outcome table R141. -/
def decodeStatuses : List Status :=
  [.success, .shortRead, .syncMismatch, .classMismatch, .idMismatch, .lengthMismatch, .checksumMismatch]

theorem decodeFrame_status_mem (s : State) (cls id : Byte) (len : Nat) :
    (decodeFrame s cls id len).1 ∈ decodeStatuses := by
  rw [decodeFrame_eq]; exact decodeOutcome_mem _ _ _ _

theorem sendFrame_status_mem {s : State} {p : Bytes} (cls id : Byte) (h : ¬s.cfg.maxFrame < 8 + p.length) :
    (sendFrame s cls id p).1 ∈ [Status.success, .transmitFailed] := by
  rw [sendFrame_of_fits _ _ h]
  dsimp only
  split <;> decide

/-- A request that fits is not refused as an overflow. -/
theorem exchange_status_mem_of_fits {s : State} {p : Bytes} (cls id ecls eid : Byte) (len : Nat)
    (h : ¬s.cfg.maxFrame < 8 + p.length) :
    (exchange s cls id p ecls eid len).1 ∈ Status.transmitFailed :: decodeStatuses := by
  by_cases ha : s.env.draw.accepts < 8 + p.length
  · rw [exchange_of_partial _ _ _ _ _ h ha]; exact List.mem_cons_self
  · rw [exchange_of_complete _ _ _ _ _ h ha]; exact List.mem_cons_of_mem _ (decodeFrame_status_mem _ _ _ _)

theorem exchange_status_mem (s : State) (cls id : Byte) (p : Bytes) (ecls eid : Byte) (len : Nat) :
    (exchange s cls id p ecls eid len).1 ∈ Status.encodeOverflow :: .transmitFailed :: decodeStatuses := by
  by_cases h : s.cfg.maxFrame < 8 + p.length
  · rw [exchange_of_overflow _ _ _ _ _ h]; exact List.mem_cons_self
  · exact List.mem_cons_of_mem _ (exchange_status_mem_of_fits _ _ _ _ _ h)

theorem onSuccess_status {ended : Status × State} {body : State → State} (h : ∀ t, (body t).status = .success) :
    (onSuccess ended body).status = ended.1 :=
  onSuccess_cases (P := fun t => t.status = ended.1) (fun hok => (h _).trans hok.symm) fun _ => rfl

theorem encodeCommand_status_mem (s : State) : (encodeCommand s).status ∈ statusesOf .encode := by
  by_cases hover : s.cfg.maxFrame < 8 + s.argPayload.length
  · rw [encodeCommand_of_overflow hover, State.finish_status]; decide
  · rw [encodeCommand_of_fits hover]; exact List.mem_cons_self

theorem decodeCommandBody_status_mem (s : State) : (decodeCommandBody s).status ∈ decodeStatuses := by
  rw [decodeCommandBody_eq_onSuccess, onSuccess_status fun _ => rfl]
  exact decodeFrame_status_mem _ _ _ _

theorem reqrespCommand_status_mem (s : State) :
    (reqrespCommand s).status ∈ Status.encodeOverflow :: .transmitFailed :: decodeStatuses := by
  rw [reqrespCommand_eq_onSuccess, onSuccess_status fun _ => rfl]
  exact exchange_status_mem _ _ _ _ _ _ _

theorem getfixCommand_status_mem (s : State) : (getfixCommand s).status ∈ Status.transmitFailed :: decodeStatuses := by
  have hmax := s.cfg.maxFrame_ge
  rw [getfixCommand_eq_onSuccess, onSuccess_status fun _ => rfl]
  exact exchange_status_mem_of_fits _ _ _ _ _ (by rw [List.length_nil]; omega)

/-- The frame SETFMT writes back is as long as the response it read, so it fits (R173). -/
theorem writeBack_status_mem {s t : State} (h : t.cfg = s.cfg) :
    (writeBack s t).1 ∈ [Status.success, .transmitFailed] := by
  have hmax := s.cfg.maxFrame_ge
  refine sendFrame_status_mem _ _ ?_
  rw [length_setFormat, State.framePayload, Memory.length_readRange, h, cfgLen]
  omega

theorem setfmtCommand_status_mem (s : State) : (setfmtCommand s).status ∈ Status.transmitFailed :: decodeStatuses := by
  have hmax := s.cfg.maxFrame_ge
  have hx := exchange_status_mem_of_fits (p := []) s.cfg.cfgClass s.cfg.cfgId s.cfg.cfgClass s.cfg.cfgId cfgLen
    (by rw [List.length_nil]; omega : ¬s.cfg.maxFrame < 8 + ([] : Bytes).length)
  have hcfg : (exchange s s.cfg.cfgClass s.cfg.cfgId [] s.cfg.cfgClass s.cfg.cfgId cfgLen).2.cfg = s.cfg := by
    rw [exchange_frame]
  rw [setfmtCommand_eq_onSuccess]
  refine onSuccess_cases (P := fun t => t.status ∈ Status.transmitFailed :: decodeStatuses) (fun _ => ?_) fun _ => hx
  exact (by decide : [Status.success, .transmitFailed] ⊆ Status.transmitFailed :: decodeStatuses)
    (writeBack_status_mem hcfg)

theorem applyrstCommand_status_mem (s : State) : (applyrstCommand s).status ∈ [Status.success, .transmitFailed] := by
  have hmax := s.cfg.maxFrame_ge
  rw [applyrstCommand_eq, State.finish_status]
  exact sendFrame_status_mem _ _ (by simp only [State.resetPayload, List.length_cons, List.length_nil]; omega)

/-- What POLL leaves of STATUS and of the results (R150, R156). -/
theorem pollCommand_status (s : State) :
    (pollCommand s).status = .success ∨ (pollCommand s).status = .capacityExceeded ∧ (pollCommand s).event = s.event := by
  by_cases h0 : s.env.rxq = []
  · by_cases h1 : s.lbCursor = 0 ∨ s.idleCount = 0
    · rw [pollCommand_of_empty s h0 h1]; exact Or.inl rfl
    · rw [pollCommand_of_flush s h0 (by omega) (by omega)]; exact Or.inl rfl
  · have hpos : 0 < s.env.rxq.length := List.length_pos_of_ne_nil h0
    by_cases h1 : s.lbCursor + s.env.rxq.length ≤ s.cfg.lineCapacity
    · rw [pollCommand_of_bytes s hpos h1]; exact Or.inl rfl
    · rw [pollCommand_of_excess s hpos (by omega)]; exact Or.inr ⟨rfl, rfl⟩

/-- Every command ends with a status of its list (R201, R104). -/
theorem exec_status_mem {i : Instr} {s t : State} (hi : isCommand i = true) (h : exec i s = .next t) :
    t.status ∈ statusesOf i := by
  have mode : ∀ {l : List Status} {m : Mode} {body : State → State}, .wrongMode ∈ l → (body s).status ∈ l →
      (whenMode m body s).status ∈ l := fun hw hb => whenMode_cases (P := fun t => t.status ∈ _) hw hb
  have operand : ∀ {l : List Status} {ok : State → Bool} {body : State → State}, .badOperand ∈ l → (body s).status ∈ l →
      (whenOperand ok body s).status ∈ l := fun hw hb => whenOperand_cases (P := fun t => t.status ∈ _) hw fun _ => hb
  cases i <;> (injection h with h; subst h)
  case cksum => exact List.mem_cons_self
  case encode => exact encodeCommand_status_mem s
  case decode =>
    exact mode (by decide) (operand (by decide)
      ((by decide : decodeStatuses ⊆ statusesOf .decode) (decodeCommandBody_status_mem s)))
  case reqresp =>
    exact mode (by decide) (operand (by decide)
      ((by decide : Status.encodeOverflow :: .transmitFailed :: decodeStatuses ⊆ statusesOf .reqresp)
        (reqrespCommand_status_mem s)))
  case getfix =>
    exact mode (by decide)
      ((by decide : Status.transmitFailed :: decodeStatuses ⊆ statusesOf .getfix) (getfixCommand_status_mem s))
  case setfmt =>
    exact mode (by decide) (operand (by decide)
      ((by decide : Status.transmitFailed :: decodeStatuses ⊆ statusesOf .setfmt) (setfmtCommand_status_mem s)))
  case applyrst =>
    exact mode (by decide)
      ((by decide : [Status.success, .transmitFailed] ⊆ statusesOf .applyrst) (applyrstCommand_status_mem s))
  case poll =>
    refine mode (by decide) ?_
    obtain hok | ⟨hcap, -⟩ := pollCommand_status s
    · rw [hok]; decide
    · rw [hcap]; decide
  case rdsent => exact mode (by decide) (List.mem_cons_self : Status.success ∈ statusesOf .rdsent)
  case lcreset => exact mode (by decide) (List.mem_cons_self : Status.success ∈ statusesOf .lcreset)
  all_goals cases hi

/-! ### A command that does not succeed -/

/-- The results the host reads (R22, R32, R33). -/
def State.results (s : State) : PollEvent × Nat × Byte × Byte × PositionFix × Memory :=
  (s.event, s.resLen, s.resCkA, s.resCkB, s.fix, s.pout)

/-- From `s` to `t` the results change on Success only. -/
def KeepsResultsOnFailure (s t : State) : Prop := t.status ≠ .success → t.results = s.results

theorem onSuccess_keepsResultsOnFailure {s : State} {ended : Status × State} {body : State → State}
    (hbody : ∀ t, (body t).status = .success) (h : ended.2.results = s.results) :
    KeepsResultsOnFailure s (onSuccess ended body) :=
  onSuccess_cases (fun _ hne => absurd (hbody _) hne) fun _ _ => h

theorem decodeFrame_results (s : State) (cls id : Byte) (len : Nat) :
    (decodeFrame s cls id len).2.results = s.results := by rw [decodeFrame_frame]; rfl

theorem exchange_results (s : State) (cls id : Byte) (p : Bytes) (ecls eid : Byte) (len : Nat) :
    (exchange s cls id p ecls eid len).2.results = s.results := by rw [exchange_frame]; rfl

/-- Every row writes the results on Success only (R22). -/
theorem exec_keepsResultsOnFailure {i : Instr} {s t : State} (h : exec i s = .next t) : KeepsResultsOnFailure s t := by
  have mode : ∀ {m : Mode} {body : State → State}, KeepsResultsOnFailure s (body s) →
      KeepsResultsOnFailure s (whenMode m body s) := fun hb => whenMode_cases (fun _ => rfl) hb
  have operand : ∀ {ok : State → Bool} {body : State → State}, KeepsResultsOnFailure s (body s) →
      KeepsResultsOnFailure s (whenOperand ok body s) := fun hb => whenOperand_cases (fun _ => rfl) fun _ => hb
  have frame := exec_frame i s t h
  cases i
  case cksum => injection h with h; subst h; exact fun hne => absurd rfl hne
  case encode =>
    injection h with h; subst h
    by_cases hover : s.cfg.maxFrame < 8 + s.argPayload.length
    · rw [encodeCommand_of_overflow hover]; exact fun _ => rfl
    · rw [encodeCommand_of_fits hover]; exact fun hne => absurd rfl hne
  case decode =>
    injection h with h; subst h
    refine mode (operand ?_)
    rw [decodeCommandBody_eq_onSuccess]
    exact onSuccess_keepsResultsOnFailure (fun _ => rfl) (decodeFrame_results _ _ _ _)
  case reqresp =>
    injection h with h; subst h
    refine mode (operand ?_)
    rw [reqrespCommand_eq_onSuccess]
    exact onSuccess_keepsResultsOnFailure (fun _ => rfl) (exchange_results _ _ _ _ _ _ _)
  case getfix =>
    injection h with h; subst h
    refine mode ?_
    rw [getfixCommand_eq_onSuccess]
    exact onSuccess_keepsResultsOnFailure (fun _ => rfl) (exchange_results _ _ _ _ _ _ _)
  case poll =>
    intro hne
    have hevent : t.event = s.event := by
      injection h with h; subst h
      by_cases hm : s.mode = .freerun
      · rw [whenMode_same _ hm] at hne ⊢
        obtain hok | ⟨-, hevent⟩ := pollCommand_status s
        · exact absurd hok hne
        · exact hevent
      · rw [whenMode_other _ hm]
    rw [frame, State.results, hevent]; rfl
  case rdsent => injection h with h; subst h; exact mode fun hne => absurd rfl hne
  all_goals (intro _; rw [frame]; rfl)

/-! ### The owners -/

section
variable {i : Instr} {s t : State} (h : exec i s = .next t)
include h

theorem exec_keeps_event (hi : i ≠ .poll) : t.event = s.event := by
  have frame := exec_frame i s t h
  cases i
  case poll => exact absurd rfl hi
  all_goals rw [frame]

theorem exec_keeps_resLen (hi : i ∉ [Instr.encode, .decode, .reqresp, .rdsent]) : t.resLen = s.resLen := by
  have frame := exec_frame i s t h
  cases i
  case encode | decode | reqresp | rdsent => exact absurd (by decide) hi
  all_goals rw [frame]

theorem exec_keeps_resCk (hi : i ≠ .cksum) : t.resCkA = s.resCkA ∧ t.resCkB = s.resCkB := by
  have frame := exec_frame i s t h
  cases i
  case cksum => exact absurd rfl hi
  all_goals (rw [frame]; exact ⟨rfl, rfl⟩)

theorem exec_keeps_fix (hi : i ≠ .getfix) : t.fix = s.fix := by
  have frame := exec_frame i s t h
  cases i
  case getfix => exact absurd rfl hi
  all_goals rw [frame]

theorem exec_keeps_pout (hi : i ∉ [Instr.decode, .reqresp, .rdsent]) : t.pout = s.pout := by
  have frame := exec_frame i s t h
  cases i
  case decode | reqresp | rdsent => exact absurd (by decide) hi
  all_goals rw [frame]

theorem exec_keeps_frameReady (hi : i ≠ .encode) : t.frameReady = s.frameReady := by
  have frame := exec_frame i s t h
  cases i
  case encode => exact absurd rfl hi
  all_goals rw [frame]

end

/-- Settles O38: the owners from the frame of every row, the status lists, and the failures. -/
theorem resultRegistersHaveOwners : Obligations.ResultRegistersHaveOwners := by
  intro i s t h
  refine ⟨exec_keeps_event h, exec_keeps_resLen h, exec_keeps_resCk h, exec_keeps_fix h, exec_keeps_pout h,
    fun hi => exec_status_mem hi h, fun hne => ?_⟩
  simpa only [State.results, Prod.mk.injEq] using exec_keepsResultsOnFailure h hne

/-! ## The host's side of the port -/

/-- Settles O52, each register as R36 gives it. -/
theorem resetStateValues : Obligations.ResetStateValues := ⟨rfl, rfl, rfl, rfl, rfl, rfl, rfl⟩

/-- Settles O56: an operand register reads back by definition, a byte of a host-owned space by the law of the write. -/
theorem hostWriteIsReadBack : Obligations.HostWriteIsReadBack := by
  refine ⟨fun s w rest h => by rw [step_cons h, fetchFrom_write], fun s b n on i o => ?_⟩
  have same : ∀ (m : Memory) (k : Nat), ((m.write k b).read k).toNat = b.toNat := fun m k =>
    congrArg BitVec.toNat (Memory.read_write_same m k b)
  have other : ∀ (m : Memory) {k j : Fin 65535}, j ≠ k → ((m.write k.val b).read j.val).toNat = (m.read j.val).toNat :=
    fun m _ _ hj => congrArg BitVec.toNat (Memory.read_write_other m _ _ b (Fin.val_ne_of_ne hj))
  exact ⟨⟨rfl, rfl⟩, ⟨rfl, rfl⟩, ⟨rfl, rfl⟩, ⟨rfl, rfl⟩, ⟨rfl, rfl⟩, ⟨rfl, rfl⟩, ⟨rfl, rfl⟩, ⟨rfl, rfl⟩, ⟨rfl, rfl⟩,
    ⟨rfl, same _ _, fun _ hj => other _ hj⟩, ⟨rfl, same _ _, fun _ hj => other _ hj⟩⟩

/-! ## The record of a delivered frame (log 9) -/

theorem decodeCommand_eq_encode {opc : Byte} (h : decodeCommand opc = .encode) : opc = 0x02 := by
  unfold decodeCommand at h
  split at h
  case h_2 heq => exact BitVec.eq_of_toNat_eq heq
  all_goals cases h

theorem encodeCommand_frameReady {s : State} (h : s.frameReady = false) :
    (encodeCommand s).frameReady = true ↔ (encodeCommand s).status = .success := by
  by_cases hover : s.cfg.maxFrame < 8 + s.argPayload.length
  · rw [encodeCommand_of_overflow hover, State.finish_frameReady, State.finish_status, h]; decide
  · rw [encodeCommand_of_fits hover]; exact iff_of_true rfl rfl

/-- Settles O57: OPC clears the record, and only an ENCODE that succeeds sets it. -/
theorem frameReadableOnlyAfterEncode : Obligations.FrameReadableOnlyAfterEncode := by
  intro s t opc rest hin hstep
  have hmove := step_moved hstep
  rw [nextInput_cons hin] at hmove
  cases hmove with | issue _ _ run => ?_
  by_cases hopc : opc = 0x02
  · subst hopc
    injection run with run
    rw [← run]
    exact (encodeCommand_frameReady (s := s.afterInput.startCommand 0x02) rfl).trans (and_iff_right rfl).symm
  · have hready : t.frameReady = false :=
      exec_keeps_frameReady run fun henc => hopc (decodeCommand_eq_encode henc)
    rw [hready]
    exact iff_of_false nofun fun hboth => hopc hboth.1

end Sys2Proof.Machine

/-! ## The owners of the spaces

Which commands write the spaces, the ReceiveSession, the collector's registers and the environment (R20, R26, R60). -/

namespace Sys2Proof.Machine

section
variable {i : Instr} {s t : State} (h : exec i s = .next t)
include h

theorem exec_keeps_frameBuffer (hi : i ∉ [Instr.encode, .decode, .reqresp, .getfix, .setfmt, .applyrst]) :
    t.fb = s.fb := by
  have frame := exec_frame i s t h
  cases i
  case encode | decode | reqresp | getfix | setfmt | applyrst => exact absurd (by decide) hi
  all_goals rw [frame]

theorem exec_keeps_session (hi : i ∉ [Instr.decode, .reqresp, .getfix, .setfmt]) : t.session = s.session := by
  have frame := exec_frame i s t h
  cases i
  case decode | reqresp | getfix | setfmt => exact absurd (by decide) hi
  all_goals rw [frame]

theorem exec_keeps_lineBuffers (hi : i ≠ .poll) : t.lb = s.lb ∧ t.cb = s.cb := by
  have frame := exec_frame i s t h
  cases i
  case poll => exact absurd rfl hi
  all_goals (rw [frame]; exact ⟨rfl, rfl⟩)

theorem exec_keeps_lineCounters (hi : i ∉ [Instr.poll, .lcreset]) :
    t.lbCursor = s.lbCursor ∧ t.idleCount = s.idleCount := by
  have frame := exec_frame i s t h
  cases i
  case poll | lcreset => exact absurd (by decide) hi
  all_goals (rw [frame]; exact ⟨rfl, rfl⟩)

theorem exec_keeps_cbLen (hi : i ∉ [Instr.poll, .rdsent]) : t.cbLen = s.cbLen := by
  have frame := exec_frame i s t h
  cases i
  case poll | rdsent => exact absurd (by decide) hi
  all_goals rw [frame]

/-- A command that makes no transport call leaves the whole environment alone. -/
theorem exec_keeps_env (hi : i ∈ [Instr.cksum, .encode, .rdsent, .lcreset]) : t.env = s.env := by
  have frame := exec_frame i s t h
  simp only [List.mem_cons, List.not_mem_nil, or_false] at hi
  obtain rfl | rfl | rfl | rfl := hi
  all_goals (dsimp only at frame; rw [frame])

end

/-- Settles O39, from the frame of every row. -/
theorem spacesHaveOwners : Obligations.SpacesHaveOwners := fun _ _ _ h =>
  ⟨exec_keeps_frameBuffer h, exec_keeps_session h, exec_keeps_lineBuffers h, exec_keeps_lineCounters h,
    exec_keeps_cbLen h, exec_keeps_env h⟩

/-! ### What POLL and RDSENT write -/

theorem exec_poll_of_freerun {s : State} (h : s.mode = .freerun) : exec .poll s = .next (pollCommand s) :=
  congrArg Host.Outcome.next (whenMode_same pollCommand h)

theorem exec_rdsent_of_freerun {s : State} (h : s.mode = .freerun) : exec .rdsent s = .next (rdsentCommand s) :=
  congrArg Host.Outcome.next (whenMode_same rdsentCommand h)

/-- Settles O22: the poll that finds bytes that fit writes exactly them at the cursor. -/
theorem pollAccumulatesAtTheCursor : Obligations.PollAccumulatesAtTheCursor := by
  intro s hmode hbytes hfits
  have hread := tReadExact_tx (tBuffered s.env).2 s.env.rxq.length s.cfg.readTimeoutMs
  have hleft := tReadExact_after_tBuffered s.env s.cfg.readTimeoutMs
  refine ⟨pollCommand s, exec_poll_of_freerun hmode, ?_⟩
  rw [pollCommand_of_bytes s hbytes hfits]
  exact ⟨rfl, Memory.holdsFrom_writeRange _ _ _, hread.trans (tBuffered_tx s.env), hleft.2⟩

/-- A sentence that POUT has no room for is copied as far as POUT reaches (log 11). -/
theorem Memory.copyOut_readRange_of_ge (pout cb : Memory) {n : Nat} (h : 65535 ≤ n) :
    pout.copyOut (cb.readRange 0 n) = pout.writeRange 0 (spaceBytes cb 0 65535) := by
  rw [Memory.copyOut, hostSpaceSize, Memory.readRange_eq_spaceBytes, spaceBytes, spaceBytes, ← List.map_take,
    List.take_range, Nat.min_eq_left h]

/-- Settles O29: the copy to POUT stops at its last byte. -/
theorem rdsentStaysInsidePout : Obligations.RdsentStaysInsidePout := by
  intro s hmode hlong
  refine ⟨rdsentCommand s, exec_rdsent_of_freerun hmode, rfl, ?_⟩
  have hpout : (rdsentCommand s).pout = s.pout.copyOut (s.cb.readRange 0 s.cbLen) := rfl
  rw [hpout, Memory.copyOut_readRange_of_ge _ _ hlong.le]
  exact Memory.holdsFrom_writeRange _ _ _

/-! ## The transport -/

/-- Settles O41, from the laws of the three primitives. -/
theorem transportContract : Obligations.TransportContract := by
  refine ⟨fun e s => ⟨Env.accepted_le e s, tWrite_tx e s, tWrite_rxq e s⟩, fun e count timeout => ?_,
    fun e timeout => ?_⟩
  · exact ⟨tReadExact_length_le e count timeout, tReadExact_tx e count timeout, tReadExact_of_le e count timeout,
      tReadExact_of_lt e count timeout, tReadExact_short e count timeout⟩
  · obtain ⟨hbytes, hrxq⟩ := tReadExact_after_tBuffered e timeout
    exact ⟨rfl, tBuffered_tx e, tBuffered_rxq e, hbytes, hrxq⟩

end Sys2Proof.Machine

/-! ## The environment after a command

It is the one its last transport call left, so what holds of every transport call holds of every command, completed or
abandoned by a reset (R71, R230). -/

namespace Sys2Proof.Machine

/-- The environment the last of some transport calls left; `e` when there was none. -/
def lastEnv (points : List Env) (e : Env) : Env := points.getLast?.getD e

theorem lastEnv_append (first second : List Env) (e : Env) :
    lastEnv (first ++ second) e = lastEnv second (lastEnv first e) := by
  rw [lastEnv, List.getLast?_append, Option.getD_or]; rfl

theorem environmentAfter_eq (i : Instr) (s : State) (calls : Nat) :
    environmentAfter i s calls = lastEnv ((transportPoints i s).take calls) s.env := rfl

theorem sendFrame_env (s : State) (cls id : Byte) (p : Bytes) :
    (sendFrame s cls id p).2.env = lastEnv (sendPoints s cls id p) s.env := by
  rw [sendPoints_eq, sendFrame_eq]
  split_ifs <;> rfl

theorem exchange_env (s : State) (cls id : Byte) (p : Bytes) (ecls eid : Byte) (len : Nat) :
    (exchange s cls id p ecls eid len).2.env = lastEnv (exchangePoints s cls id p len) s.env := by
  rw [exchangePoints_eq, exchange_eq]
  split_ifs
  · rfl
  · rfl
  · rw [decodeFrame_eq]; rfl

theorem onSuccess_env {ended : Status × State} {body : State → State} (h : ∀ t, (body t).env = t.env) :
    (onSuccess ended body).env = ended.2.env :=
  onSuccess_cases (P := fun t => t.env = ended.2.env) (fun _ => h _) fun _ => rfl

theorem decodeCommandBody_env (s : State) :
    (decodeCommandBody s).env = lastEnv [(receive s s.expLength).env] s.env := by
  rw [decodeCommandBody_eq, receive_env, frameLength_eq]; rfl

theorem reqrespCommand_env (s : State) :
    (reqrespCommand s).env =
      lastEnv (exchangePoints s s.opnd.argClass s.opnd.argId s.argPayload s.expLength) s.env := by
  rw [reqrespCommand_eq_onSuccess]
  refine (onSuccess_env ?_).trans (exchange_env _ _ _ _ _ _ _)
  exact fun _ => rfl

theorem getfixCommand_env (s : State) :
    (getfixCommand s).env = lastEnv (exchangePoints s navClass navId [] navLen) s.env := by
  rw [getfixCommand_eq_onSuccess]
  refine (onSuccess_env ?_).trans (exchange_env _ _ _ _ _ _ _)
  exact fun _ => rfl

theorem setfmtCommand_env (s : State) : (setfmtCommand s).env = lastEnv (setfmtPoints s) s.env := by
  rw [setfmtCommand_eq_onSuccess, setfmtPoints_eq_append, lastEnv_append,
    ← exchange_env s s.cfg.cfgClass s.cfg.cfgId [] s.cfg.cfgClass s.cfg.cfgId cfgLen]
  generalize exchange s s.cfg.cfgClass s.cfg.cfgId [] s.cfg.cfgClass s.cfg.cfgId cfgLen = ended
  obtain ⟨st, t⟩ := ended
  cases st
  case success => exact sendFrame_env _ _ _ _
  all_goals rfl

theorem emptyPoll_env (s : State) : (emptyPoll s).env = s.env := by
  unfold emptyPoll flushLine
  split_ifs <;> rfl

theorem fullPoll_env (s : State) (n : Nat) :
    (fullPoll s n).env = if s.lineFits n then (tReadExact s.env n s.cfg.readTimeoutMs).2 else s.env := by
  unfold fullPoll
  split <;> rfl

theorem pollCommand_env (s : State) : (pollCommand s).env = lastEnv (pollPoints s) s.env := by
  unfold pollCommand pollPoints
  dsimp only
  by_cases hnone : (tBuffered s.env).1 = 0
  · rw [if_pos hnone, if_neg fun h => h.1 hnone, emptyPoll_env]; rfl
  · rw [if_neg hnone, fullPoll_env]
    by_cases hfits : s.lineFits (tBuffered s.env).1 = true
    · refine (if_pos hfits).trans ?_
      rw [if_pos ⟨hnone, hfits⟩]; rfl
    · refine (if_neg hfits).trans ?_
      rw [if_neg fun h => hfits h.2]; rfl

/-- A command that is not refused for its mode or an operand makes its calls; a refused one makes none (R194). -/
theorem whenMode_env {s : State} {m : Mode} {body : State → State} {points : List Env}
    (h : (body s).env = lastEnv points s.env) :
    (whenMode m body s).env = lastEnv (if s.mode = m then points else []) s.env := by
  by_cases hm : s.mode = m
  · rw [whenMode_same _ hm, if_pos hm]; exact h
  · rw [whenMode_other _ hm, if_neg hm]; rfl

theorem whenOperand_env {s : State} {ok : State → Bool} {body : State → State} {points : List Env}
    (h : (body s).env = lastEnv points s.env) :
    (whenOperand ok body s).env = lastEnv (if ok s then points else []) s.env := by
  unfold whenOperand
  split
  · exact h
  · rfl

theorem whenMode_whenOperand_env {s : State} {m : Mode} {ok : State → Bool} {body : State → State} {points : List Env}
    (h : (body s).env = lastEnv points s.env) :
    (whenMode m (whenOperand ok body) s).env = lastEnv (if s.mode = m ∧ ok s then points else []) s.env := by
  rw [ite_and]
  exact whenMode_env (whenOperand_env h)

/-- The environment after a command is the one its last transport call left (R71). -/
theorem exec_env {i : Instr} {s t : State} (hi : (encode i).1 = .command) (h : exec i s = .next t) :
    t.env = lastEnv (transportPoints i s) s.env := by
  have frame := exec_frame i s t h
  cases i
  case decode => injection h with h; subst h; exact whenMode_whenOperand_env (decodeCommandBody_env s)
  case reqresp => injection h with h; subst h; exact whenMode_whenOperand_env (reqrespCommand_env s)
  case getfix => injection h with h; subst h; exact whenMode_env (getfixCommand_env s)
  case setfmt => injection h with h; subst h; exact whenMode_whenOperand_env (setfmtCommand_env s)
  case applyrst => injection h with h; subst h; exact whenMode_env (sendFrame_env _ _ _ _)
  case poll => injection h with h; subst h; exact whenMode_env (pollCommand_env s)
  case cksum | encode | rdsent | lcreset | illegal => rw [frame]; rfl
  all_goals cases hi

/-! ### The TX stream

Each transport call leaves it as it was or appends to it (R66, R67, R68). -/

theorem lastEnv_tx_grows {points : List Env} {e : Env} (h : ∀ x ∈ points, e.tx <+: x.tx) :
    e.tx <+: (lastEnv points e).tx := by
  unfold lastEnv
  cases hl : points.getLast? with
  | none => exact List.prefix_refl _
  | some x => exact h x (List.mem_of_getLast? hl)

theorem tWrite_tx_grows (e : Env) (s : Bytes) : e.tx <+: (tWrite e s).2.tx := by
  rw [tWrite_tx]; exact List.prefix_append _ _

theorem sendPoints_tx_grows (s : State) (cls id : Byte) (p : Bytes) :
    ∀ e ∈ sendPoints s cls id p, s.env.tx <+: e.tx := by
  rw [sendPoints_eq]
  split
  · exact List.forall_mem_nil _
  · exact List.forall_mem_singleton.2 (tWrite_tx_grows _ _)

theorem exchangePoints_tx_grows (s : State) (cls id : Byte) (p : Bytes) (len : Nat) :
    ∀ e ∈ exchangePoints s cls id p len, s.env.tx <+: e.tx := by
  have hsent := tWrite_tx_grows s.env (frameBytes cls id p)
  rw [exchangePoints_eq]
  split_ifs
  · exact List.forall_mem_nil _
  · exact List.forall_mem_singleton.2 hsent
  · refine List.forall_mem_cons.2 ⟨hsent, List.forall_mem_singleton.2 ?_⟩
    rw [responseEnv, tReadExact_tx]; exact hsent

theorem exchange_tx_grows (s : State) (cls id : Byte) (p : Bytes) (ecls eid : Byte) (len : Nat) :
    s.env.tx <+: (exchange s cls id p ecls eid len).2.env.tx := by
  rw [exchange_env]
  exact lastEnv_tx_grows (exchangePoints_tx_grows _ _ _ _ _)

theorem writeBackPoints_tx_grows (s : State) (ended : Status × State) :
    ∀ e ∈ writeBackPoints s ended, ended.2.env.tx <+: e.tx := by
  obtain ⟨st, t⟩ := ended
  cases st
  case success => exact sendPoints_tx_grows _ _ _ _
  all_goals exact List.forall_mem_nil _

theorem setfmtPoints_tx_grows (s : State) : ∀ e ∈ setfmtPoints s, s.env.tx <+: e.tx := by
  rw [setfmtPoints_eq_append]
  refine List.forall_mem_append.2 ⟨exchangePoints_tx_grows _ _ _ _ _, fun e he => ?_⟩
  exact (exchange_tx_grows _ _ _ _ _ _ _).trans (writeBackPoints_tx_grows s _ e he)

theorem pollPoints_tx_grows (s : State) : ∀ e ∈ pollPoints s, s.env.tx <+: e.tx := by
  have hcount : s.env.tx <+: (tBuffered s.env).2.tx := by rw [tBuffered_tx]
  unfold pollPoints
  dsimp only
  split
  · refine List.forall_mem_cons.2 ⟨hcount, List.forall_mem_singleton.2 ?_⟩
    rw [tReadExact_tx]; exact hcount
  · exact List.forall_mem_singleton.2 hcount

/-- No transport call of any instruction shortens the TX stream (R71). -/
theorem transportPoints_tx_grows (i : Instr) (s : State) : ∀ e ∈ transportPoints i s, s.env.tx <+: e.tx := by
  have guarded : ∀ {c : Prop} [Decidable c] {points : List Env}, (∀ e ∈ points, s.env.tx <+: e.tx) →
      ∀ e ∈ if c then points else [], s.env.tx <+: e.tx := fun h => by
    split
    · exact h
    · exact List.forall_mem_nil _
  cases i
  case decode => exact guarded (List.forall_mem_singleton.2 (by rw [receive_env, tReadExact_tx]))
  case reqresp => exact guarded (exchangePoints_tx_grows _ _ _ _ _)
  case getfix => exact guarded (exchangePoints_tx_grows _ _ _ _ _)
  case setfmt => exact guarded (setfmtPoints_tx_grows s)
  case applyrst => exact guarded (sendPoints_tx_grows _ _ _ _)
  case poll => exact guarded (pollPoints_tx_grows s)
  all_goals exact List.forall_mem_nil _

theorem exec_tx_grows {i : Instr} {s t : State} (h : exec i s = .next t) : s.env.tx <+: t.env.tx := by
  cases hport : (encode i).1
  case command =>
    rw [exec_env hport h]
    exact lastEnv_tx_grows (transportPoints_tx_grows i s)
  case wire =>
    injection (exec_wire s hport).symm.trans h with h
    rw [← h]; exact List.prefix_refl _

/-- A command that a reset cuts off keeps what it has sent (R230). -/
theorem environmentAfter_tx_grows (i : Instr) (s : State) (calls : Nat) :
    s.env.tx <+: (environmentAfter i s calls).tx := by
  rw [environmentAfter_eq]
  exact lastEnv_tx_grows fun e he => transportPoints_tx_grows i s e (List.mem_of_mem_take he)

theorem moved_tx_grows {s t : State} {input : Input} (h : Moved s input t) : s.env.tx <+: t.env.tx := by
  cases h
  case issue opc run => exact exec_tx_grows (s := s.startCommand opc) run
  case abandon opc calls copied strap => exact environmentAfter_tx_grows _ (s.startCommand opc) calls
  case write w => rw [hostWrite_frame]
  all_goals exact List.prefix_refl _

/-- Settles O40: a step is one of seven moves, and the transport calls of each only append. -/
theorem txStreamOnlyGrows : Obligations.TxStreamOnlyGrows := by
  intro s t h
  obtain ⟨sent, hsent⟩ := moved_tx_grows (step_moved h)
  rw [State.afterInput_env] at hsent
  exact ⟨sent, hsent.symm⟩

end Sys2Proof.Machine

/-! ## The words of a decoded row

They are the bytes it was decoded from (R90, R92, R94, R97, R100), so a run of bytes from the peer reaches RXQ as it is,
whether or not it is a row (R69). -/

namespace Sys2Proof.Machine

theorem lenLow_le16 (lo hi : Byte) : lenLow (le16 lo hi).toNat = lo := by
  have hlo := lo.isLt
  refine BitVec.eq_of_toNat_eq ?_
  rw [lenLow, le16_toNat, BitVec.toNat_ofNat]
  omega

theorem lenHigh_le16 (lo hi : Byte) : lenHigh (le16 lo hi).toNat = hi := by
  have hlo := lo.isLt
  have hhi := hi.isLt
  refine BitVec.eq_of_toNat_eq ?_
  rw [lenHigh, le16_toNat, BitVec.toNat_ofNat]
  omega

theorem le32Bytes_le32 (b0 b1 b2 b3 : Byte) : le32Bytes (le32 b0 b1 b2 b3) = [b0, b1, b2, b3] := by
  simp [le32Bytes, le32, BitVec.extractLsb'_append_eq_of_le (w := 8),
    BitVec.extractLsb'_append_eq_of_add_le (w := 8)]

/-- A field read from a payload is its four bytes (R94). -/
theorem le32Bytes_le32At {p : Bytes} {o : Nat} (h : o + 4 ≤ p.length) :
    le32Bytes (le32At p o) = (p.drop o).take 4 := by
  have hdrop : 4 ≤ (p.drop o).length := by rw [List.length_drop]; omega
  have hbyte : ∀ k, p.getD (o + k) 0 = (p.drop o).getD k 0 := fun k => by
    rw [List.getD_eq_getElem?_getD, List.getD_eq_getElem?_getD, List.getElem?_drop]
  rw [le32At, le32Bytes_le32, hbyte, hbyte, hbyte, show p.getD o 0 = _ from hbyte 0]
  match p.drop o, hdrop with
  | _ :: _ :: _ :: _ :: _, _ => rfl

/-- The seven fields hold the whole position payload (R97). -/
theorem payloadOfFix_fixOfPayload {p : Bytes} (h : p.length = navLen) : payloadOfFix (fixOfPayload p) = p := by
  have h : p.length = 28 := h
  have field : ∀ {o : Nat}, o + 4 ≤ 28 → le32Bytes (le32At p o) = (p.drop o).take 4 := fun ho =>
    le32Bytes_le32At (by omega)
  simp only [payloadOfFix, fixOfPayload, field, Nat.reduceAdd, Nat.reduceLeDiff, List.drop_zero, ← List.take_add]
  exact List.take_of_length_le (by omega)

/-- Whichever row owns a frame, its words are the frame (R90, R96, R97, R99, R171). -/
theorem encode_classifyFrame (cfg : Config) (cls id : Byte) (p : Bytes) (ckA ckB : Byte) :
    encode (classifyFrame cfg cls id p ckA ckB) = (.wire, frameWith cls id p ckA ckB) := by
  unfold classifyFrame
  split_ifs with hpoll hresponse hquery hwrite hrst
  · obtain ⟨rfl, rfl, hp, rfl, rfl⟩ := hpoll
    rw [List.eq_nil_of_length_eq_zero hp]; rfl
  · obtain ⟨rfl, rfl, hp⟩ := hresponse
    rw [encode, payloadOfFix_fixOfPayload hp]
  · obtain ⟨-, -, hp⟩ := hquery
    rw [List.eq_nil_of_length_eq_zero hp]; rfl
  · rfl
  · obtain ⟨-, -, hp, -⟩ := hrst
    obtain ⟨b0, b1, rfl⟩ := List.length_eq_two.1 hp; rfl
  · rfl

theorem encode_of_decodeSentenceTail {tail : Bytes} {i : Instr} (h : decodeSentenceTail tail = .ok i) :
    encode i = (.wire, dollar :: tail) := by
  unfold decodeSentenceTail at h
  split_ifs at h with hnewline
  injection h with h; subst h
  rw [encode, List.cons_append, List.dropLast_append_getLast? _ hnewline]

/-- What follows a header is the payload and the two trailer bytes (R90, R91). -/
theorem take_append_trailer {rest : Bytes} {n : Nat} (h : rest.length = n + trailerSize) :
    rest.take n ++ [rest.getD n 0, rest.getD (n + 1) 0] = rest := by
  rw [trailerSize] at h
  have h0 : n < rest.length := by omega
  have h1 : n + 1 < rest.length := by omega
  have hdrop : rest.drop n = [rest.getD n 0, rest.getD (n + 1) 0] := by
    rw [List.drop_eq_getElem_cons h0, List.drop_eq_getElem_cons h1, List.drop_of_length_le h.le,
      List.getD_eq_getElem _ _ h0, List.getD_eq_getElem _ _ h1]
  rw [← hdrop, List.take_append_drop]

theorem encode_of_decodeFrameBytes {cfg : Config} {bytes : Bytes} {i : Instr} (h : decodeFrameBytes cfg bytes = .ok i) :
    encode i = (.wire, bytes) := by
  unfold decodeFrameBytes at h
  split at h
  case h_1 s1 s2 cls id lo hi rest =>
    split_ifs at h with hsync hlen
    injection h with h; subst h
    rw [not_or, not_not, not_not] at hsync
    rw [not_not] at hlen
    obtain ⟨rfl, rfl⟩ := hsync
    have hp : (rest.take (le16 lo hi).toNat).length = (le16 lo hi).toNat :=
      List.length_take_of_le (by rw [hlen]; exact Nat.le_add_right _ _)
    rw [encode_classifyFrame, frameWith, hp, lenLow_le16, lenHigh_le16, List.append_assoc,
      take_append_trailer hlen]
    rfl
  case h_2 => cases h

/-- The words of a row decoded from the peer's bytes are those bytes. -/
theorem encode_of_decodeWire {cfg : Config} {bytes : Bytes} {i : Instr} (h : decodeWire cfg bytes = .ok i) :
    encode i = (.wire, bytes) := by
  unfold decodeWire at h
  split at h
  case h_1 => cases h
  case h_2 b tail =>
    split_ifs at h with hdollar
    · rw [hdollar]; exact encode_of_decodeSentenceTail h
    · exact encode_of_decodeFrameBytes h

/-- What a run of bytes adds to RXQ is the run itself, a row or not (R69). -/
theorem arrivedBytes_eq (cfg : Config) (bytes : Bytes) : arrivedBytes cfg bytes = bytes := by
  unfold arrivedBytes
  split
  case h_1 i h => rw [encode_of_decodeWire h]
  case h_2 => rfl

/-- Settles O43, from the effect every wire row has. -/
theorem wireRowsArriveInRxq : Obligations.WireRowsArriveInRxq := fun _ s h => exec_wire s h

/-- Every step answers a next state. -/
theorem step_completes (s : State) : ∃ t, step s = .next t := by
  unfold step
  cases s.fetch with
  | run i t => exact exec_completes i t
  | done t => exact ⟨t, rfl⟩

/-- Settles O44: every step is one of the seven moves, and an arrival adds the bytes themselves. -/
theorem anyArrivalIsAppended : Obligations.AnyArrivalIsAppended := by
  intro s bytes rest hin
  obtain ⟨t, hstep⟩ := step_completes s
  have hmove := step_moved hstep
  rw [nextInput_cons hin] at hmove
  cases hmove
  rw [hstep, arrivedBytes_eq, afterInput_cons hin]
  rfl

/-- Settles O50: the move taken is the arrival, and the decoder names the row it runs. -/
theorem stepRunsTheArrivedRow : Obligations.StepRunsTheArrivedRow := by
  intro s bytes rest i hin hdecode
  rw [step_cons hin, fetchFrom_arrive_ok (by exact hdecode)]

end Sys2Proof.Machine

/-! ## Decoder and encoder

The decoder asks of a frame, row by row, what well-formedness asks of it (log 14). So the row that owns the bytes of a
well-formed instruction is that instruction, and a row the decoder answers is well-formed (R90 to R103). -/

namespace Sys2Proof.Machine

/-! ### The command byte (R101 to R103) -/

theorem wellFormed_illegal {cfg : Config} {opc : Byte} :
    (Instr.illegal opc).wellFormed cfg = true ↔ opc.toNat = 0 ∨ 10 < opc.toNat := by
  rw [Instr.wellFormed, Bool.or_eq_true, beq_iff_eq, decide_eq_true_iff, BitVec.toNat_eq]
  rfl

theorem decodeCommand_of_illegal {cfg : Config} {opc : Byte} (h : (Instr.illegal opc).wellFormed cfg = true) :
    decodeCommand opc = .illegal opc := by
  have hopc := wellFormed_illegal.1 h
  unfold decodeCommand
  split
  case h_11 => rfl
  all_goals omega

/-- Ten values name a command and encode it; every other value is illegal and stands for itself (R102, R103). -/
theorem decodeCommand_sound (cfg : Config) (opc : Byte) :
    (decodeCommand opc).wellFormed cfg = true ∧ encode (decodeCommand opc) = (.command, [opc]) := by
  unfold decodeCommand
  split
  case h_11 =>
    refine ⟨wellFormed_illegal.2 ?_, rfl⟩
    simp only [imp_false] at *
    omega
  all_goals
    rename_i hopc
    have hbyte : opc = BitVec.ofNat 8 opc.toNat := by simp
    rw [hopc] at hbyte
    subst hbyte
    exact ⟨rfl, rfl⟩

/-! ### The row that owns a frame (R96, R97, R99, R171) -/

theorem isNavPoll_iff {cls id : Byte} {p : Bytes} {ckA ckB : Byte} :
    isNavPoll cls id p ckA ckB = true ↔
      cls = navClass ∧ id = navId ∧ p.length = 0 ∧ ckA = 0x03 ∧ ckB = 0x0A := by
  simp [isNavPoll, navClass, navId, and_assoc]

theorem isNavResponse_iff {cls id : Byte} {p : Bytes} :
    isNavResponse cls id p = true ↔ cls = navClass ∧ id = navId ∧ p.length = navLen := by
  simp [isNavResponse, navClass, navId, navLen, and_assoc]

theorem isCfg_iff {cfg : Config} {len : Nat} {cls id : Byte} {p : Bytes} :
    isCfg cfg len cls id p = true ↔ cls = cfg.cfgClass ∧ id = cfg.cfgId ∧ p.length = len := by
  simp [isCfg, and_assoc]

theorem isRst_iff {cfg : Config} {cls id : Byte} {p : Bytes} :
    isRst cfg cls id p = true ↔
      cls = cfg.rstClass ∧ id = cfg.rstId ∧ p.length = 2 ∧ p.getD 0 0 = cfg.rstByte0 := by
  cases p <;> simp [isRst, and_assoc]

theorem isPlainFrame_iff {cfg : Config} {cls id : Byte} {p : Bytes} {ckA ckB : Byte} :
    isPlainFrame cfg cls id p ckA ckB = true ↔
      ¬isNavPoll cls id p ckA ckB ∧ ¬isNavResponse cls id p ∧ ¬isCfg cfg 0 cls id p ∧ ¬isCfg cfg 20 cls id p ∧
        ¬isRst cfg cls id p := by
  simp [isPlainFrame, and_assoc]

/-- The decoder's tests of a frame are those of well-formedness, the most special row first (log 14). -/
theorem classifyFrame_eq (cfg : Config) (cls id : Byte) (p : Bytes) (ckA ckB : Byte) :
    classifyFrame cfg cls id p ckA ckB =
      if isNavPoll cls id p ckA ckB then .navPollFrame
      else if isNavResponse cls id p then .navResponseFrame (fixOfPayload p) ckA ckB
      else if isCfg cfg 0 cls id p then .cfgQueryFrame cls id ckA ckB
      else if isCfg cfg 20 cls id p then .cfgWriteFrame cls id p ckA ckB
      else if isRst cfg cls id p then .rstFrame cls id (p.getD 0 0) (p.getD 1 0) ckA ckB
      else .ubxFrame cls id p ckA ckB := by
  simp only [isNavPoll_iff, isNavResponse_iff, isCfg_iff, isRst_iff]
  rfl

theorem classifyFrame_wellFormed (cfg : Config) (cls id : Byte) {p : Bytes} (ckA ckB : Byte) (hp : p.length ≤ 65535) :
    (classifyFrame cfg cls id p ckA ckB).wellFormed cfg = true := by
  rw [classifyFrame_eq]
  split_ifs with hpoll hresponse hquery hwrite hrst
  · rfl
  · rfl
  · obtain ⟨rfl, rfl, hlen⟩ := isCfg_iff.1 hquery
    obtain rfl := List.eq_nil_of_length_eq_zero hlen
    simp [Instr.wellFormed, hpoll]
  · exact hwrite
  · obtain ⟨rfl, rfl, -, hb⟩ := isRst_iff.1 hrst
    rw [hb]
    simp [Instr.wellFormed]
  · rw [Instr.wellFormed, decide_eq_true hp, Bool.true_and]
    exact isPlainFrame_iff.2 ⟨hpoll, hresponse, hquery, hwrite, hrst⟩

/-! ### A whole frame and a sentence (R90, R92, R100) -/

/-- The length field holds every length up to 65535 (R92). -/
theorem le16_lenLow_lenHigh {n : Nat} (h : n ≤ 65535) : (le16 (lenLow n) (lenHigh n)).toNat = n := by
  rw [le16_toNat, lenLow, lenHigh, BitVec.toNat_ofNat, BitVec.toNat_ofNat]
  omega

theorem decodeWire_frameWith (cfg : Config) (cls id : Byte) {p : Bytes} (ckA ckB : Byte) (hp : p.length ≤ 65535) :
    decodeWire cfg (frameWith cls id p ckA ckB) = .ok (classifyFrame cfg cls id p ckA ckB) := by
  have hlen := le16_lenLow_lenHigh hp
  show decodeFrameBytes cfg
    (sync1 :: sync2 :: cls :: id :: lenLow p.length :: lenHigh p.length :: (p ++ [ckA, ckB])) = _
  simp [decodeFrameBytes, hlen, trailerSize]

theorem decodeWire_sentence (cfg : Config) (body : Bytes) :
    decodeWire cfg (dollar :: body ++ [newline]) = .ok (.sentence body) := by
  simp [decodeWire, decodeSentenceTail]

/-! ### The seven fields of a position payload (R94, R97) -/

/-- A field is what its four bytes make of it (R94). -/
theorem le32_le32Bytes (v : U32) :
    le32 (v.extractLsb' 0 8) (v.extractLsb' 8 8) (v.extractLsb' 16 8) (v.extractLsb' 24 8) = v := by
  rw [le32, BitVec.extractLsb'_append_extractLsb'_eq_extractLsb',
    BitVec.extractLsb'_append_extractLsb'_eq_extractLsb', BitVec.extractLsb'_append_extractLsb'_eq_extractLsb']
  · exact BitVec.extractLsb'_eq_self
  all_goals rfl

theorem length_payloadOfFix (f : PositionFix) : (payloadOfFix f).length = navLen := rfl

theorem fixOfPayload_payloadOfFix (f : PositionFix) : fixOfPayload (payloadOfFix f) = f := by
  simp [fixOfPayload, payloadOfFix, le32At, le32Bytes, le32_le32Bytes]

/-! ### The two round trips -/

/-- The row of a well-formed wire instruction's bytes is the instruction itself: its own test succeeds and those of the
more special rows fail, most by the payload's length (log 14). -/
theorem decodeWire_encode {cfg : Config} {i : Instr} (hport : (encode i).1 = .wire) (h : i.wellFormed cfg = true) :
    decodeWire cfg (encode i).2 = .ok i := by
  cases i
  case ubxFrame cls id p ckA ckB =>
    rw [Instr.wellFormed, Bool.and_eq_true, decide_eq_true_iff, isPlainFrame_iff] at h
    obtain ⟨hp, hpoll, hresponse, hquery, hwrite, hrst⟩ := h
    rw [encode, decodeWire_frameWith cfg cls id ckA ckB hp, classifyFrame_eq, if_neg hpoll, if_neg hresponse,
      if_neg hquery, if_neg hwrite, if_neg hrst]
  case navPollFrame => rfl
  case navResponseFrame fix ckA ckB =>
    have hp : (payloadOfFix fix).length = 28 := length_payloadOfFix fix
    have hresponse : isNavResponse navClass navId (payloadOfFix fix) = true := isNavResponse_iff.2 ⟨rfl, rfl, hp⟩
    rw [encode, decodeWire_frameWith cfg navClass navId ckA ckB (by omega), classifyFrame_eq, hresponse]
    simp [isNavPoll_iff, hp, fixOfPayload_payloadOfFix]
  case cfgQueryFrame cls id ckA ckB =>
    simp only [Instr.wellFormed, Bool.and_eq_true, beq_iff_eq, Bool.not_eq_true'] at h
    obtain ⟨⟨hcls, hid⟩, hpoll⟩ := h
    have hquery : isCfg cfg 0 cls id [] = true := isCfg_iff.2 ⟨hcls, hid, rfl⟩
    rw [encode, decodeWire_frameWith cfg cls id ckA ckB (by decide), classifyFrame_eq, hpoll, hquery]
    simp [isNavResponse]
  case cfgWriteFrame cls id p ckA ckB =>
    have hwrite : isCfg cfg 20 cls id p = true := h
    obtain ⟨-, -, hp⟩ := isCfg_iff.1 hwrite
    rw [encode, decodeWire_frameWith cfg cls id ckA ckB (by omega), classifyFrame_eq, hwrite]
    simp [isNavPoll_iff, isNavResponse, isCfg, hp]
  case rstFrame cls id byte0 variant ckA ckB =>
    simp only [Instr.wellFormed, Bool.and_eq_true, beq_iff_eq] at h
    obtain ⟨⟨hcls, hid⟩, hbyte⟩ := h
    have hrst : isRst cfg cls id [byte0, variant] = true := isRst_iff.2 ⟨hcls, hid, rfl, hbyte⟩
    rw [encode, decodeWire_frameWith cfg cls id ckA ckB (by simp), classifyFrame_eq, hrst]
    simp [isNavPoll, isNavResponse, isCfg]
  case sentence body => exact decodeWire_sentence cfg body
  all_goals cases hport

/-- Settles O45: on the wire by the row that owns the bytes, in OPC by the opcode map. -/
theorem decodeInvertsEncode : Obligations.DecodeInvertsEncode := by
  intro cfg i h
  cases hport : (encode i).1
  case wire => exact decodeWire_encode hport h
  case command =>
    cases i
    case illegal opc => exact congrArg Except.ok (decodeCommand_of_illegal h)
    case cksum | encode | decode | reqresp | getfix | setfmt | applyrst | poll | rdsent | lcreset => rfl
    all_goals cases hport

theorem wellFormed_of_decodeFrameBytes {cfg : Config} {bytes : Bytes} {i : Instr}
    (h : decodeFrameBytes cfg bytes = .ok i) : i.wellFormed cfg = true := by
  unfold decodeFrameBytes at h
  split at h
  case h_1 s1 s2 cls id lo hi rest =>
    split_ifs at h
    injection h with h; subst h
    have hfield : (le16 lo hi).toNat < 65536 := (le16 lo hi).isLt
    have hp : (rest.take (le16 lo hi).toNat).length ≤ (le16 lo hi).toNat := List.length_take_le _ _
    exact classifyFrame_wellFormed _ _ _ _ _ (by omega)
  case h_2 => cases h

theorem wellFormed_of_decodeWire {cfg : Config} {bytes : Bytes} {i : Instr} (h : decodeWire cfg bytes = .ok i) :
    i.wellFormed cfg = true := by
  unfold decodeWire at h
  split at h
  case h_1 => cases h
  case h_2 b tail =>
    split_ifs at h
    · unfold decodeSentenceTail at h
      split_ifs at h
      injection h with h; subst h; rfl
    · exact wellFormed_of_decodeFrameBytes h

/-- Settles O46: the opcode map and the owning row are well-formed and keep the words they were read from. -/
theorem encodeInvertsDecode : Obligations.EncodeInvertsDecode := by
  intro cfg port bytes i h
  match port, bytes with
  | .command, [opc] =>
    injection h with h; subst h
    exact decodeCommand_sound cfg opc
  | .wire, _ => exact ⟨wellFormed_of_decodeWire h, encode_of_decodeWire h⟩

/-! ### Codes, written-out words and the issued command -/

/-- The statuses in the order of R104. -/
def statusTable : List Status :=
  [.success, .shortRead, .syncMismatch, .classMismatch, .idMismatch, .lengthMismatch, .checksumMismatch,
    .encodeOverflow, .capacityExceeded, .transmitFailed, .illegalOp, .wrongMode, .badOperand]

theorem statusTable_getElem?_code (a : Status) : statusTable[a.code.toNat]? = some a := by
  cases a <;> rfl

/-- Settles O35: a code is the status's place in the table, so it names one status only. -/
theorem statusAndEventCodes : Obligations.StatusAndEventCodes := by
  refine ⟨rfl, rfl, fun a b h => Option.some_injective _ ?_⟩
  rw [← statusTable_getElem?_code a, h, statusTable_getElem?_code b]

/-- Settles O47: each word is run through the decoder. -/
theorem writtenOutWordsDecode : Obligations.WrittenOutWordsDecode :=
  ⟨rfl, rfl, rfl, rfl, rfl, rfl, rfl, rfl⟩

/-- Settles O49: the next move is the issue, which starts the command OPC names. -/
theorem stepRunsTheIssuedCommand : Obligations.StepRunsTheIssuedCommand := fun _ _ _ hin =>
  ⟨rfl, step_cons hin⟩

end Sys2Proof.Machine

/-! ## The Checksum Engine

Both sums of R120 live in the ring of bytes, so wrapping needs no case: the append law (R123) extends to the
concatenation of two sequences, and the closed form (R124) follows by putting one byte in front at a time. -/

namespace Sys2Proof.Machine

/-! ### The laws of the pair (R120, R123) -/

@[simp] theorem checksum_nil : checksum [] = (0, 0) := rfl

@[simp] theorem checksum_singleton (x : Byte) : checksum [x] = (x, x) := by
  simp [checksum, checksumStep]

theorem checksum_append_singleton (s : Bytes) (x : Byte) :
    checksum (s ++ [x]) = ((checksum s).1 + x, (checksum s).2 + (checksum s).1 + x) := by
  rw [checksum, List.foldl_concat, ← checksum, checksumStep, BitVec.add_assoc]

/-- One more byte weighs one more `x`. -/
theorem ofNat_succ_mul (n : Nat) (x : Byte) : BitVec.ofNat 8 (n + 1) * x = BitVec.ofNat 8 n * x + x := by
  rw [BitVec.ofNat_add, add_mul, BitVec.one_mul]

/-- Every byte of `t` adds the sum of `s` to the second sum once more. -/
theorem checksum_append (s t : Bytes) :
    checksum (s ++ t) =
      ((checksum s).1 + (checksum t).1,
        (checksum s).2 + BitVec.ofNat 8 t.length * (checksum s).1 + (checksum t).2) := by
  induction t using List.reverseRecOn with
  | nil => simp
  | append_singleton t x ih =>
    rw [← List.append_assoc, checksum_append_singleton, ih, checksum_append_singleton, List.length_append,
      List.length_singleton, ofNat_succ_mul]
    ext1 <;> ring

theorem checksum_cons (x : Byte) (s : Bytes) :
    checksum (x :: s) = (x + (checksum s).1, BitVec.ofNat 8 (s.length + 1) * x + (checksum s).2) := by
  rw [← List.singleton_append, checksum_append, checksum_singleton, ofNat_succ_mul]
  ext1 <;> ring

/-! ### The closed form (R124) -/

theorem weightedSum_cons (x : Byte) (s : Bytes) :
    weightedSum (x :: s) = (s.length + 1) * x.toNat + weightedSum s := by
  simp [weightedSum, List.range_succ_eq_map, Function.comp_def]

theorem checksum_eq_ofNat (s : Bytes) :
    checksum s = (BitVec.ofNat 8 (s.map (fun b => b.toNat)).sum, BitVec.ofNat 8 (weightedSum s)) := by
  induction s with
  | nil => rfl
  | cons x s ih =>
    rw [checksum_cons, ih, weightedSum_cons, List.map_cons, List.sum_cons]
    simp only [BitVec.ofNat_add, BitVec.ofNat_mul, BitVec.ofNat_toNat, BitVec.setWidth_eq]

theorem checksum_toNat (s : Bytes) :
    (checksum s).1.toNat = (s.map (fun b => b.toNat)).sum % 256 ∧ (checksum s).2.toNat = weightedSum s % 256 := by
  rw [checksum_eq_ofNat, BitVec.toNat_ofNat, BitVec.toNat_ofNat]
  exact ⟨rfl, rfl⟩

/-! ### Its consequences (R124 (a) to (c)) -/

theorem checksum_fst_eq_sum (s : Bytes) : (checksum s).1 = s.sum := by
  induction s with
  | nil => rfl
  | cons x s ih => rw [checksum_cons, ih, List.sum_cons]

theorem checksum_set_fst {s : Bytes} {k : Nat} (x : Byte) (hk : k < s.length) :
    (checksum (s.set k x)).1 = (checksum s).1 + (x - s.getD k 0) := by
  rw [checksum_fst_eq_sum, checksum_fst_eq_sum, List.sum_set', dif_pos hk, List.getD_eq_getElem _ _ hk]
  ring

theorem checksum_set_fst_ne {s : Bytes} {k : Nat} {x : Byte} (hk : k < s.length) (hx : x ≠ s.getD k 0) :
    (checksum (s.set k x)).1 ≠ (checksum s).1 := by
  rw [checksum_set_fst x hk, Ne, add_eq_left, sub_eq_zero]
  exact hx

/-- The weights of a run of `n` equal bytes add up to `1 + ... + n`. -/
theorem checksum_replicate (n : Nat) (x : Byte) :
    checksum (List.replicate n x) = (BitVec.ofNat 8 n * x, BitVec.ofNat 8 ((n + 1).choose 2) * x) := by
  induction n with
  | zero => simp
  | succ n ih =>
    rw [List.replicate_succ, checksum_cons, ih, List.length_replicate, Nat.choose_succ_succ' (n + 1) 1,
      Nat.choose_one_right, BitVec.ofNat_add (n + 1), add_mul, ofNat_succ_mul]
    ext1 <;> ring

theorem checksum_append_zeros (s : Bytes) (n : Nat) :
    checksum (s ++ List.replicate n 0) =
      ((checksum s).1, (checksum s).2 + BitVec.ofNat 8 n * (checksum s).1) := by
  simp [checksum_append, checksum_replicate]

theorem checksum_replicate_256 (x : Byte) : checksum (List.replicate 256 x) = (0, 128 * x) := by
  have hn : BitVec.ofNat 8 256 = 0 := rfl
  have hweights : BitVec.ofNat 8 (Nat.choose 257 2) = 128 := by rw [Nat.choose_two_right]; rfl
  rw [checksum_replicate, hn, hweights, zero_mul]

/-! ### The obligations -/

/-- Settles O1: one more turn of the loop. -/
theorem checksumIsIncremental : Obligations.ChecksumIsIncremental :=
  ⟨checksum_nil, checksum_append_singleton⟩

/-- Settles O2: the closed form and its consequences; `[]` and `[00]` are the rule's own two sequences with one pair. -/
theorem checksumClosedForm : Obligations.ChecksumClosedForm := by
  refine ⟨checksum_toNat, fun s k x hk => ⟨checksum_set_fst x hk, checksum_set_fst_ne hk⟩, fun s n => ?_,
    checksum_replicate_256, [], [0], (List.cons_ne_nil _ _).symm, ?_⟩
  · rw [checksum_append_zeros]
    exact ⟨rfl, rfl⟩
  · rw [checksum_nil, checksum_singleton]

/-- CKSUM as one record update (R121). -/
theorem cksumCommand_eq (s : State) :
    cksumCommand s =
      { s with
        resCkA := (checksum (spaceBytes s.pin 0 s.opnd.argLen.toNat)).1
        resCkB := (checksum (spaceBytes s.pin 0 s.opnd.argLen.toNat)).2
        status := .success } := by
  rw [← argPayload_eq]
  rfl

/-- Settles O3: the arm of CKSUM asks for no mode. -/
theorem cksumWritesThePair : Obligations.CksumWritesThePair := fun s =>
  congrArg Host.Outcome.next (cksumCommand_eq s)

end Sys2Proof.Machine

/-! ## The Frame Codec

What the bytes of a frame are, offset by offset; what the outcome table (R141) says of bytes laid out as a frame is; and
what an accepted DECODE leaves, on Success and on a failure. -/

namespace Sys2Proof.Machine

/-! ### The bytes of a frame (R90, R93) -/

theorem frameBytes_eq (cls id : Byte) (p : Bytes) :
    frameBytes cls id p =
      sync1 :: sync2 :: cls :: id :: lenLow p.length :: lenHigh p.length ::
        (p ++ [(checksum (frameBody cls id p)).1, (checksum (frameBody cls id p)).2]) := rfl

theorem getD_frameBytes_payload (cls id : Byte) {p : Bytes} {k : Nat} (h : k < p.length) :
    (frameBytes cls id p).getD (6 + k) 0 = p.getD k 0 := by
  rw [frameBytes_eq, Nat.add_comm]
  simp only [List.getD_cons_succ]
  exact List.getD_append _ _ _ _ h

/-- The two bytes behind the payload are the checksum pair (R93). -/
theorem getD_frameBytes_trailer (cls id : Byte) (p : Bytes) :
    ((frameBytes cls id p).getD (6 + p.length) 0, (frameBytes cls id p).getD (7 + p.length) 0) =
      checksum (frameBody cls id p) := by
  rw [frameBytes_eq, Nat.add_comm 6, Nat.add_comm 7]
  simp

/-- What the checksum runs over: all but the sync bytes and the trailer (R93). -/
theorem take_drop_frameBytes (cls id : Byte) (p : Bytes) :
    ((frameBytes cls id p).drop 2).take (4 + p.length) = frameBody cls id p := by
  rw [frameBytes_eq, frameBody, Nat.add_comm]
  simp

/-- The frame as it stands in FB once it is written (R130). -/
theorem Memory.read_writeRange_frame (m : Memory) (cls id : Byte) {p : Bytes} {k : Nat} (h : k < 8 + p.length) :
    (m.writeRange 0 (frameBytes cls id p)).read k = (frameBytes cls id p).getD k 0 := by
  rw [Memory.read_writeRange, length_frameBytes, if_pos (by omega), Nat.sub_zero]

theorem spaceBytes_writeRange_frame (m : Memory) (cls id : Byte) (p : Bytes) :
    spaceBytes (m.writeRange 0 (frameBytes cls id p)) 2 (4 + p.length) = frameBody cls id p := by
  rw [← Memory.readRange_eq_spaceBytes, ← Nat.zero_add 2,
    Memory.readRange_writeRange_part _ _ _ _ _ (by rw [length_frameBytes]; omega), take_drop_frameBytes]

theorem lenLow_toNat (n : Nat) : (lenLow n).toNat = n % 256 := by
  rw [lenLow, BitVec.toNat_ofNat, Nat.mod_mod]

theorem lenHigh_toNat {n : Nat} (h : n ≤ 65535) : (lenHigh n).toNat = n / 256 := by
  rw [lenHigh, BitVec.toNat_ofNat, Nat.mod_eq_of_lt (by omega)]

/-! ### The outcome table on bytes laid out as a frame (R141) -/

/-- The checks of R133 on eight bytes around `p`. -/
theorem decodeOutcome_layout (cls id s1 s2 c i lo hi a b : Byte) (p : Bytes) :
    decodeOutcome cls id p.length (s1 :: s2 :: c :: i :: lo :: hi :: (p ++ [a, b])) =
      if s1 ≠ sync1 ∨ s2 ≠ sync2 then .syncMismatch
      else if c ≠ cls then .classMismatch
      else if i ≠ id then .idMismatch
      else if lo.toNat + 256 * hi.toNat ≠ p.length then .lengthMismatch
      else if (a, b) ≠ checksum (c :: i :: lo :: hi :: p) then .checksumMismatch
      else .success := by
  have hlen : ¬(s1 :: s2 :: c :: i :: lo :: hi :: (p ++ [a, b])).length < 8 + p.length := by simp; omega
  rw [decodeOutcome, if_neg hlen, Nat.add_comm 6, Nat.add_comm 7, Nat.add_comm 4, ite_or]
  simp [sync1, sync2]

theorem lenLow_add_lenHigh {n : Nat} (h : n ≤ 65535) : (lenLow n).toNat + 256 * (lenHigh n).toNat = n := by
  rw [lenLow_toNat, lenHigh_toNat h, Nat.mod_add_div]

/-- A valid frame passes every check. -/
theorem decodeOutcome_frameBytes (cls id : Byte) {p : Bytes} (hp : p.length ≤ 65535) :
    decodeOutcome cls id p.length (frameBytes cls id p) = .success := by
  rw [frameBytes_eq, decodeOutcome_layout]
  simp [lenLow_add_lenHigh hp, frameBody]

/-- Another byte in the header of a valid frame fails the check of its offset. -/
theorem decodeOutcome_frameBytes_set_header (cls id x : Byte) {p : Bytes} {k : Nat} (hp : p.length ≤ 65535)
    (hk : k < 6) (hx : x ≠ (frameBytes cls id p).getD k 0) :
    decodeOutcome cls id p.length ((frameBytes cls id p).set k x) = flippedOutcome k := by
  have hlen := lenLow_add_lenHigh hp
  have hnat : x.toNat ≠ ((frameBytes cls id p).getD k 0).toNat := fun he => hx (BitVec.eq_of_toNat_eq he)
  rw [frameBytes_eq] at hx hnat ⊢
  interval_cases k
  all_goals
    simp only [List.getD_cons_zero, List.getD_cons_succ] at hx hnat
    simp only [List.set_cons_zero, List.set_cons_succ, decodeOutcome_layout]
  · exact if_pos (by simp [hx])
  · exact if_pos (by simp [hx])
  · simp [hx, flippedOutcome]
  · simp [hx, flippedOutcome]
  -- either byte of the length field changes the length it declares
  all_goals
    rw [if_neg (by simp), if_neg (by simp), if_neg (by simp), if_pos (by omega)]
    rfl

/-- Another byte in the payload of a valid frame changes the first sum (R124 (a)). -/
theorem decodeOutcome_frameBytes_set_payload (cls id x : Byte) {p : Bytes} {j : Nat} (hp : p.length ≤ 65535)
    (hj : j < p.length) (hx : x ≠ p.getD j 0) :
    decodeOutcome cls id p.length ((frameBytes cls id p).set (j + 6) x) = .checksumMismatch := by
  have hbody : cls :: id :: lenLow p.length :: lenHigh p.length :: p.set j x = (frameBody cls id p).set (j + 4) x :=
    rfl
  have hsum : checksum (frameBody cls id p) ≠ checksum ((frameBody cls id p).set (j + 4) x) := fun he =>
    checksum_set_fst_ne (by simp [frameBody]; omega) (by simpa [frameBody] using hx) (congrArg Prod.fst he).symm
  have hset := decodeOutcome_layout cls id sync1 sync2 cls id (lenLow p.length) (lenHigh p.length)
    (checksum (frameBody cls id p)).1 (checksum (frameBody cls id p)).2 (p.set j x)
  rw [List.length_set, hbody] at hset
  rw [frameBytes_eq]
  simp only [List.set_cons_succ, List.set_append_left j x hj, hset, lenLow_add_lenHigh hp]
  simp [hsum]

/-- Another byte in the trailer of a valid frame is not the one recomputed. -/
theorem decodeOutcome_frameBytes_set_trailer (cls id x : Byte) {p : Bytes} {j : Nat} (hp : p.length ≤ 65535)
    (hj : j < 2) (hx : x ≠ (frameBytes cls id p).getD (p.length + j + 6) 0) :
    decodeOutcome cls id p.length ((frameBytes cls id p).set (p.length + j + 6) x) = .checksumMismatch := by
  have hbody : cls :: id :: lenLow p.length :: lenHigh p.length :: p = frameBody cls id p := rfl
  rw [frameBytes_eq] at hx ⊢
  interval_cases j
  · have hfirst : x ≠ (checksum (frameBody cls id p)).1 := by simpa using hx
    simp [decodeOutcome_layout, lenLow_add_lenHigh hp, hbody, Prod.ext_iff, hfirst]
  · have hsecond : x ≠ (checksum (frameBody cls id p)).2 := by simpa using hx
    simp [decodeOutcome_layout, lenLow_add_lenHigh hp, hbody, Prod.ext_iff, hsecond]

/-- Another byte anywhere in a valid frame fails the check its offset belongs to (R139). -/
theorem decodeOutcome_frameBytes_set (cls id x : Byte) {p : Bytes} {k : Nat} (hp : p.length ≤ 65535)
    (hk : k < 8 + p.length) (hx : x ≠ (frameBytes cls id p).getD k 0) :
    decodeOutcome cls id p.length ((frameBytes cls id p).set k x) = flippedOutcome k := by
  by_cases hhead : k < 6
  · exact decodeOutcome_frameBytes_set_header cls id x hp hhead hx
  obtain ⟨j, rfl⟩ := Nat.exists_eq_add_of_le' (Nat.le_of_not_lt hhead)
  have hrow : flippedOutcome (j + 6) = .checksumMismatch := by
    rw [flippedOutcome, if_neg (by omega), if_neg (by omega), if_neg (by omega), if_neg (by omega)]
  rw [hrow]
  by_cases hpay : j < p.length
  · rw [Nat.add_comm, getD_frameBytes_payload cls id hpay] at hx
    exact decodeOutcome_frameBytes_set_payload cls id x hp hpay hx
  · obtain ⟨i, rfl⟩ := Nat.exists_eq_add_of_le (Nat.le_of_not_lt hpay)
    exact decodeOutcome_frameBytes_set_trailer cls id x hp (by omega) hx

theorem flipBit_ne (b : Byte) {j : Nat} (h : j < 8) : flipBit b j ≠ b := by
  intro he
  have hbit : (flipBit b j).getLsbD j = b.getLsbD j := by rw [he]
  simp [flipBit, h] at hbit

/-! ### DECODE after acceptance (R133, R134) -/

/-- The bytes the one read of a DECODE returns. -/
def State.response (s : State) : Bytes := responseBytes s.env s s.opnd.expLen.toNat

/-- The row of R141 for those bytes. -/
def State.outcome (s : State) : Status :=
  decodeOutcome s.opnd.expClass s.opnd.expId s.opnd.expLen.toNat s.response

/-- What a DECODE leaves before anything is delivered: STATUS, FB, the ReceiveSession and the environment (R133). -/
def decodedState (s : State) : State :=
  { s with
    status := s.outcome
    fb := s.fb.writeRange 0 s.response
    session := decodeSession s.opnd.expClass s.opnd.expId s.opnd.expLen.toNat s.response
    env := responseEnv s.env s s.opnd.expLen.toNat }

theorem decodeCommandBody_eq_decodedState (s : State) :
    decodeCommandBody s =
      { decodedState s with
        pout :=
          if s.outcome = .success then s.pout.writeRange 0 ((s.response.drop 6).take s.opnd.expLen.toNat) else s.pout
        resLen := if s.outcome = .success then s.opnd.expLen.toNat else s.resLen } :=
  decodeCommandBody_eq s

theorem decodeCommandBody_of_success {s : State} (h : s.outcome = .success) :
    decodeCommandBody s =
      { decodedState s with
        pout := s.pout.writeRange 0 ((s.response.drop 6).take s.opnd.expLen.toNat)
        resLen := s.opnd.expLen.toNat } := by
  rw [decodeCommandBody_eq_decodedState, if_pos h, if_pos h]

theorem decodeCommandBody_of_failure {s : State} (h : s.outcome ≠ .success) :
    decodeCommandBody s = decodedState s := by
  rw [decodeCommandBody_eq_decodedState, if_neg h, if_neg h]
  rfl

theorem decodeCommandBody_status (s : State) : (decodeCommandBody s).status = s.outcome := by
  rw [decodeCommandBody_eq_decodedState]; rfl

theorem decodeCommandBody_fb (s : State) : (decodeCommandBody s).fb = s.fb.writeRange 0 s.response := by
  rw [decodeCommandBody_eq_decodedState]; rfl

theorem decodeCommandBody_responseEnv (s : State) :
    (decodeCommandBody s).env = responseEnv s.env s s.opnd.expLen.toNat := by
  rw [decodeCommandBody_eq_decodedState]; rfl

/-- The bytes delivered are the payload of the bytes read, and nothing above them is touched (R76). -/
theorem decodeCommandBody_pout_read {s : State} (h : s.outcome = .success) (k : Nat) :
    (decodeCommandBody s).pout.read k =
      if k < s.opnd.expLen.toNat then s.response.getD (6 + k) 0 else s.pout.read k := by
  have hlen : 8 + s.opnd.expLen.toNat ≤ s.response.length :=
    length_of_not_shortRead (h.trans_ne (by decide))
  rw [decodeCommandBody_of_success h]
  dsimp only
  rw [Memory.read_writeRange, List.length_take, List.length_drop, Nat.sub_zero]
  by_cases hk : k < s.opnd.expLen.toNat
  · rw [if_pos (by omega), if_pos hk]
    simp [List.getD, hk]
  · rw [if_neg (by omega), if_neg hk]

/-! ### Acceptance of DECODE (R192, R193) -/

theorem exec_decode_of_accepted {s : State} (hm : s.mode = .framed) (h : 8 + s.opnd.expLen.toNat ≤ s.cfg.maxFrame) :
    exec .decode s = .next (decodeCommandBody s) :=
  congrArg Host.Outcome.next
    ((whenMode_same _ hm).trans (whenOperand_ok _ ((expectationFits_iff s).2 h)))

theorem exec_decode_of_misfit {s : State} (hm : s.mode = .framed) (h : s.cfg.maxFrame < 8 + s.opnd.expLen.toNat) :
    exec .decode s = .next { s with status := .badOperand } := by
  have hbad : s.expectationFits = false := by
    rw [← Bool.not_eq_true, expectationFits_iff]; omega
  exact congrArg Host.Outcome.next ((whenMode_same _ hm).trans (whenOperand_bad _ hbad))

theorem exec_decode_of_freerun {s : State} (hm : s.mode = .freerun) :
    exec .decode s = .next { s with status := .wrongMode } :=
  congrArg Host.Outcome.next (whenMode_other _ (hm.trans_ne (by decide)))

/-! ### What the one read finds (R67) -/

theorem response_of_le {s : State} (h : 8 + s.opnd.expLen.toNat ≤ s.env.rxq.length) :
    s.response = s.env.rxq.take (8 + s.opnd.expLen.toNat) :=
  (tReadExact_of_le _ _ _ h).1

theorem response_of_lt {s : State} (h : s.env.rxq.length < 8 + s.opnd.expLen.toNat) :
    s.response = (s.env.rxq ++ s.env.draw.waits).take (8 + s.opnd.expLen.toNat) :=
  (tReadExact_of_lt _ _ _ h).1

/-- The read comes back short exactly when what waits and what arrives are too few bytes. -/
theorem length_response_lt_iff (s : State) :
    s.response.length < 8 + s.opnd.expLen.toNat ↔
      (s.env.rxq ++ s.env.draw.waits).length < 8 + s.opnd.expLen.toNat := by
  by_cases h : 8 + s.opnd.expLen.toNat ≤ s.env.rxq.length
  · rw [response_of_le h, List.length_take, List.length_append]; omega
  · rw [response_of_lt (by omega), List.length_take]; omega

theorem outcome_eq_shortRead_iff (s : State) :
    s.outcome = .shortRead ↔ (s.env.rxq ++ s.env.draw.waits).length < 8 + s.opnd.expLen.toNat :=
  (decodeOutcome_eq_shortRead_iff _ _ _ _).trans (length_response_lt_iff s)

section
variable {s : State} {r tail : Bytes} (hq : s.env.rxq = r ++ tail) (hr : r.length = 8 + s.opnd.expLen.toNat)
include hq hr

theorem length_rxq_of_waiting : 8 + s.opnd.expLen.toNat ≤ s.env.rxq.length := by
  rw [hq, List.length_append]; omega

theorem response_of_waiting : s.response = r := by
  rw [response_of_le (length_rxq_of_waiting hq hr), hq, ← hr, List.take_left]

theorem rxq_after_waiting : (responseEnv s.env s s.opnd.expLen.toNat).rxq = tail ++ s.env.draw.after := by
  have hleft := (tReadExact_of_le s.env _ s.cfg.readTimeoutMs (length_rxq_of_waiting hq hr)).2
  rwa [hq, ← hr, List.drop_left, hr] at hleft

theorem outcome_of_waiting :
    s.outcome = decodeOutcome s.opnd.expClass s.opnd.expId s.opnd.expLen.toNat r := by
  rw [State.outcome, response_of_waiting hq hr]

end

/-! ### ENCODE (R130, R131) -/

theorem exec_encode_of_fits {s : State} (h : 8 + s.opnd.argLen.toNat ≤ s.cfg.maxFrame) :
    exec .encode s = .next
      { s with
        fb := s.fb.writeRange 0 (frameBytes s.opnd.argClass s.opnd.argId s.argPayload)
        resLen := 8 + s.argPayload.length
        frameReady := true
        status := .success } :=
  congrArg Host.Outcome.next (encodeCommand_of_fits (by rw [length_argPayload]; omega))

theorem exec_encode_of_overflow {s : State} (h : s.cfg.maxFrame < 8 + s.opnd.argLen.toNat) :
    exec .encode s = .next { s with status := .encodeOverflow } :=
  congrArg Host.Outcome.next (encodeCommand_of_overflow (by rwa [length_argPayload]))

theorem length_argPayload_le (s : State) : s.argPayload.length ≤ 65535 := by
  have := s.opnd.argLen.isLt
  rw [length_argPayload]; omega

theorem getD_argPayload (s : State) {k : Nat} (h : k < s.opnd.argLen.toNat) : s.argPayload.getD k 0 = s.pin.read k := by
  rw [argPayload_eq, getD_spaceBytes _ h]

/-- The host reads a byte of the delivered frame from FB (R27). -/
theorem portValue_fb_of_delivered {t : State} {k : Nat} (hready : t.frameReady = true) (hk : k < t.resLen) :
    t.portValue (.fb k) = (t.fb.read k).toNat :=
  if_pos (by rw [State.frameByteDefined, hready, decide_eq_true hk]; rfl)

/-- What an ENCODE that succeeds delivers to the host is the frame of its message (R131). -/
theorem encoded_frame {s t : State} (h : exec .encode s = .next t) (hst : t.status = .success) :
    spaceBytes t.fb 0 t.resLen = frameBytes s.opnd.argClass s.opnd.argId s.argPayload := by
  by_cases hfits : 8 + s.opnd.argLen.toNat ≤ s.cfg.maxFrame
  · rw [exec_encode_of_fits hfits] at h
    cases h
    dsimp only
    rw [← length_frameBytes s.opnd.argClass s.opnd.argId, ← Memory.readRange_eq_spaceBytes,
      Memory.readRange_writeRange_same]
  · rw [exec_encode_of_overflow (by omega)] at h
    cases h
    cases hst

/-! ### The obligations -/

/-- Settles O8: the bytes at the head of RXQ are the frame of the message, and a valid frame passes every check. -/
theorem decodeOfEncodeIsTheMessage : Obligations.DecodeOfEncodeIsTheMessage := by
  intro s t u tail hexec hst hm hfits hcls hid hlen hq
  rw [encoded_frame hexec hst] at hq
  have hr : (frameBytes s.opnd.argClass s.opnd.argId s.argPayload).length = 8 + u.opnd.expLen.toNat := by
    rw [length_frameBytes, length_argPayload, hlen]
  have hok : u.outcome = .success := by
    rw [outcome_of_waiting hq hr, hcls, hid, hlen, ← length_argPayload]
    exact decodeOutcome_frameBytes _ _ (length_argPayload_le s)
  refine ⟨decodeCommandBody u, exec_decode_of_accepted hm hfits, ?_, ?_, fun k hk => ?_, ?_⟩
  · rw [decodeCommandBody_status, hok]
  · rw [decodeCommandBody_of_success hok, ← hlen]
  · rw [decodeCommandBody_pout_read hok, if_pos (by rwa [hlen]), response_of_waiting hq hr,
      getD_frameBytes_payload _ _ (by rwa [length_argPayload]), getD_argPayload s hk]
  · rw [decodeCommandBody_responseEnv, rxq_after_waiting hq hr]

/-- Settles O4: one equation per case, and the frame stands in FB offset by offset. -/
theorem encodeBuildsTheFrame : Obligations.EncodeBuildsTheFrame := by
  refine fun s => ⟨fun hfits => ⟨_, exec_encode_of_fits hfits, ?_⟩, exec_encode_of_overflow⟩
  have hread := fun k => @Memory.read_writeRange_frame s.fb s.opnd.argClass s.opnd.argId s.argPayload k
  rw [← length_argPayload s]
  refine ⟨rfl, hread 0 (by omega), hread 1 (by omega), hread 2 (by omega), hread 3 (by omega), ?_, ?_,
    fun k hk => ?_, ?_, fun k hk => ?_, fun k hk => portValue_fb_of_delivered rfl hk⟩
  · exact (congrArg BitVec.toNat (hread 4 (by omega))).trans (lenLow_toNat _)
  · exact (congrArg BitVec.toNat (hread 5 (by omega))).trans (lenHigh_toNat (length_argPayload_le s))
  · rw [hread _ (by omega), getD_frameBytes_payload _ _ hk, getD_argPayload s (by rwa [← length_argPayload s])]
  · rw [hread _ (by omega), hread _ (by omega), spaceBytes_writeRange_frame, getD_frameBytes_trailer]
  · exact Memory.read_writeRange_outside _ _ _ _ (by rw [length_frameBytes]; omega)

/-- Settles O5: the status is the outcome; a payload is delivered on Success only (R141). -/
theorem decodeFollowsOutcomeTable : Obligations.DecodeFollowsOutcomeTable := by
  intro s hm hfits
  refine ⟨decodeCommandBody s, exec_decode_of_accepted hm hfits, decodeCommandBody_status s, ?_, ?_⟩
  all_goals rw [decodeCommandBody_status]
  · intro hok k hk
    rw [decodeCommandBody_pout_read hok, if_pos hk]
    rfl
  · intro hfail
    rw [decodeCommandBody_of_failure hfail]
    rfl

/-- Settles O6: the refusals, and the two endings of an accepted DECODE (R134). -/
theorem decodeDeliversOnlyOnSuccess : Obligations.DecodeDeliversOnlyOnSuccess := by
  refine ⟨fun s => exec_decode_of_freerun, fun s hm => ⟨exec_decode_of_misfit hm, fun hfits =>
    ⟨decodeCommandBody s, exec_decode_of_accepted hm hfits, ?_, fun hok => ⟨?_, fun k hk => ?_, fun k hk => ?_⟩,
      fun hfail => ?_⟩⟩⟩
  · rw [decodeCommandBody_fb]
    exact Memory.holdsFrom_writeRange _ _ _
  · rw [decodeCommandBody_of_success hok, ← hok]
    rfl
  · rw [decodeCommandBody_pout_read hok, if_pos hk]
    rfl
  · rw [decodeCommandBody_pout_read hok, if_neg (by omega)]
  · rw [decodeCommandBody_of_failure hfail]
    rfl

/-- Settles O7: the one read finds all its bytes waiting, or waits for them, or comes back short (R67). -/
theorem decodeConsumesWhatItRead : Obligations.DecodeConsumesWhatItRead := by
  intro s t hm hfits hexec
  rw [exec_decode_of_accepted hm hfits] at hexec
  cases hexec
  have hwaiting := tReadExact_of_le s.env (8 + s.opnd.expLen.toNat) s.cfg.readTimeoutMs
  have harriving := tReadExact_of_lt s.env (8 + s.opnd.expLen.toNat) s.cfg.readTimeoutMs
  rw [decodeCommandBody_status, decodeCommandBody_responseEnv, Ne, outcome_eq_shortRead_iff]
  refine ⟨tReadExact_tx _ _ _, fun hle => ⟨?_, (hwaiting hle).2⟩, fun hlt _ => (harriving hlt).2,
    fun hs => ⟨hs, ?_⟩⟩
  · rw [List.length_append]; omega
  · exact tReadExact_short _ _ _ ((length_response_lt_iff s).2 hs)

/-- Settles O9: a flipped bit is another byte, and another byte fails the check of its offset. -/
theorem oneFlippedBitIsDetected : Obligations.OneFlippedBitIsDetected := by
  intro s p tail k j hm hfits hp hk hj hq
  have hmax : p.length ≤ 65535 := by have := s.opnd.expLen.isLt; omega
  have hout : s.outcome = flippedOutcome k := by
    rw [outcome_of_waiting hq (by simp [hp]), ← hp]
    exact decodeOutcome_frameBytes_set _ _ _ hmax hk (flipBit_ne _ hj)
  have hfail : s.outcome ≠ .success := by
    rw [hout, flippedOutcome]; split_ifs <;> decide
  refine ⟨decodeCommandBody s, exec_decode_of_accepted hm hfits, ?_⟩
  rw [decodeCommandBody_of_failure hfail]
  exact ⟨hout, rfl, rfl⟩

/-- Settles O10: the first four checks pass and the fifth fails before the trailer is looked at (R135). -/
theorem lengthIsCheckedBeforeChecksum : Obligations.LengthIsCheckedBeforeChecksum := by
  intro s r tail hm hfits hlen hq h0 h1 hcls hid hwrong
  refine ⟨decodeCommandBody s, exec_decode_of_accepted hm hfits, ?_⟩
  rw [decodeCommandBody_status, outcome_of_waiting hq hlen, decodeOutcome, if_neg (by omega), if_neg (not_not.2 h0),
    if_neg (not_not.2 h1), if_neg (not_not.2 hcls), if_neg (not_not.2 hid), if_pos hwrong]

end Sys2Proof.Machine

/-! ## The Free-Running Line Collector

Every state is under one of the equations of POLL: an empty poll, a published run, a dropped run, bytes that fit, bytes
that do not (R150). The statements about POLL read off those equations. -/

namespace Sys2Proof.Machine

/-! ### Acceptance of the three commands (R192) -/

theorem exec_poll_of_framed {s : State} (h : s.mode = .framed) : exec .poll s = .next { s with status := .wrongMode } :=
  congrArg Host.Outcome.next (whenMode_other _ (h.trans_ne (by decide)))

theorem eq_pollCommand_of_exec {s t : State} (h : exec .poll s = .next t) (hm : s.mode = .freerun) :
    t = pollCommand s := by
  rw [exec_poll_of_freerun hm] at h
  exact (Host.Outcome.next.inj h).symm

theorem exec_rdsent_of_framed {s : State} (h : s.mode = .framed) :
    exec .rdsent s = .next { s with status := .wrongMode } :=
  congrArg Host.Outcome.next (whenMode_other _ (h.trans_ne (by decide)))

theorem exec_lcreset_of_framed {s : State} (h : s.mode = .framed) :
    exec .lcreset s = .next { s with status := .wrongMode } :=
  congrArg Host.Outcome.next (whenMode_other _ (h.trans_ne (by decide)))

theorem exec_lcreset_of_freerun {s : State} (h : s.mode = .freerun) : exec .lcreset s = .next (lcresetCommand s) :=
  congrArg Host.Outcome.next (whenMode_same lcresetCommand h)

/-! ### POLL and the environment -/

theorem tBuffered_rxq_of_empty {e : Env} (h : e.rxq = []) : (tBuffered e).2.rxq = e.draw.after := by
  rw [tBuffered_rxq, h, List.nil_append]

/-- POLL sends nothing: both its calls, TBuffered and TReadExact, leave the TX stream alone (R67, R68). -/
theorem pollCommand_tx (s : State) : (pollCommand s).env.tx = s.env.tx := by
  rw [pollCommand_env, pollPoints]
  split_ifs
  · exact (tReadExact_tx _ _ _).trans (tBuffered_tx s.env)
  · exact tBuffered_tx s.env

/-! ### The idle counter (R151) -/

/-- The counter after one more empty poll reaches the threshold exactly when it was at least 1 before. -/
theorem idle_reaches_threshold_iff {count : Nat} : 2 ≤ min (count + 1) 2 ↔ 1 ≤ count := by omega

theorem pollCommand_idleCount_of_bytes {s : State} (h : 0 < s.env.rxq.length) : (pollCommand s).idleCount = 0 := by
  by_cases hfits : s.lbCursor + s.env.rxq.length ≤ s.cfg.lineCapacity
  · rw [pollCommand_of_bytes s h hfits]
  · rw [pollCommand_of_excess s h (by omega)]

/-- A poll that empties the buffer is a flush, and a flush zeroes the counter. -/
theorem pollCommand_idleCount_of_emptied {s : State} (hc : 0 < s.lbCursor) (h : (pollCommand s).lbCursor = 0) :
    (pollCommand s).idleCount = 0 := by
  by_cases hq : s.env.rxq = []
  · by_cases hi : s.idleCount = 0
    · rw [pollCommand_of_empty s hq (.inr hi)] at h
      exact absurd h hc.ne'
    · rw [pollCommand_of_flush s hq hc (by omega)]
  · exact pollCommand_idleCount_of_bytes (List.length_pos_of_ne_nil hq)

/-- What a flush decides by the delimiters is whether the run is published or dropped. -/
theorem pollCommand_flushes {s : State} (hq : s.env.rxq = []) (hc : 0 < s.lbCursor) (hi : 1 ≤ s.idleCount) :
    ((pollCommand s).event = .published ∨ (pollCommand s).event = .dropped) ∧
      (pollCommand s).lbCursor = 0 ∧ (pollCommand s).idleCount = 0 := by
  by_cases hd : s.lb.read 0 = dollar ∧ s.lb.read (s.lbCursor - 1) = newline
  · rw [pollCommand_of_published hq hc hi hd]
    exact ⟨.inl rfl, rfl, rfl⟩
  · rw [pollCommand_of_dropped hq hc hi hd]
    exact ⟨.inr rfl, rfl, rfl⟩

/-! ### The obligations -/

/-- Settles O20: one equation per branch. -/
theorem pollFollowsItsRule : Obligations.PollFollowsItsRule := by
  refine ⟨fun s => exec_poll_of_framed, ?_⟩
  rintro s n idle hm rfl rfl
  rw [idle_reaches_threshold_iff]
  refine ⟨pollCommand s, exec_poll_of_freerun hm, pollCommand_tx s, fun hn hwait => ?_, fun hn ⟨hi, hc⟩ hd => ?_,
    fun hn ⟨hi, hc⟩ hd => ?_, fun hn hfits => ?_, fun hn hover => ?_⟩
  · have hq := List.eq_nil_of_length_eq_zero hn
    rw [pollCommand_of_empty s hq (by omega)]
    exact ⟨rfl, tBuffered_rxq_of_empty hq⟩
  · have hq := List.eq_nil_of_length_eq_zero hn
    rw [pollCommand_of_published hq hc hi hd]
    exact ⟨rfl, Memory.holdsFrom_writeRange _ _ _, tBuffered_rxq_of_empty hq⟩
  · have hq := List.eq_nil_of_length_eq_zero hn
    rw [pollCommand_of_dropped hq hc hi hd]
    exact ⟨rfl, tBuffered_rxq_of_empty hq⟩
  · rw [pollCommand_of_bytes s hn hfits]
    exact ⟨rfl, Memory.holdsFrom_writeRange _ _ _, (tReadExact_after_tBuffered s.env s.cfg.readTimeoutMs).2⟩
  · rw [pollCommand_of_excess s hn hover]
    exact ⟨rfl, tBuffered_rxq s.env⟩

/-- Settles O21: each row of R159 is a case of one of the equations of POLL. -/
theorem pollFollowsTransitionTable : Obligations.PollFollowsTransitionTable := by
  intro s hm
  refine ⟨pollCommand s, exec_poll_of_freerun hm, fun hc hn => ?_, fun hc hn hfits => ?_, fun hc hn hover => ?_,
    fun _ hn hi => ?_, fun hc hn hi hd => ?_, fun hc hn hi hd => ?_, fun _ hn hfits => ?_, fun _ hn hover => ?_⟩
  · rw [pollCommand_of_empty s (List.eq_nil_of_length_eq_zero hn) (.inl hc)]
    exact ⟨hc, rfl, rfl, rfl⟩
  · rw [pollCommand_of_bytes s hn (by omega)]
    exact ⟨by simp only [hc, Nat.zero_add], rfl, rfl, rfl⟩
  · rw [pollCommand_of_excess s hn (by omega)]
    exact ⟨hc, rfl, rfl, rfl⟩
  · rw [pollCommand_of_empty s (List.eq_nil_of_length_eq_zero hn) (.inr hi)]
    exact ⟨rfl, by dsimp only; omega, rfl, rfl⟩
  · rw [pollCommand_of_published (List.eq_nil_of_length_eq_zero hn) hc hi hd]
    exact ⟨rfl, rfl, rfl, rfl⟩
  · rw [pollCommand_of_dropped (List.eq_nil_of_length_eq_zero hn) hc hi hd]
    exact ⟨rfl, rfl, rfl, rfl⟩
  · rw [pollCommand_of_bytes s hn hfits]
    exact ⟨rfl, rfl, rfl, rfl⟩
  · rw [pollCommand_of_excess s hn hover]
    exact ⟨rfl, rfl, rfl, rfl⟩

/-- Settles O23: one byte cannot be both delimiters, so what is published has at least two. -/
theorem pollPublishesTheWholeRun : Obligations.PollPublishesTheWholeRun := by
  intro s hm hq hc hi hfirst hlast
  have htwo : s.lbCursor ≠ 1 := fun hone => by
    rw [hone, hfirst] at hlast
    exact absurd hlast (by decide)
  obtain ⟨t, hexec, htx, -, hpublished, -⟩ := pollFollowsItsRule.2 s _ _ hm rfl rfl
  obtain ⟨ht, hcb, hrxq⟩ :=
    hpublished (by rw [hq, List.length_nil]) ⟨idle_reaches_threshold_iff.2 hi, hc⟩ ⟨hfirst, hlast⟩
  refine ⟨t, hexec, ht, hcb, ?_, htx, hrxq⟩
  rw [ht]
  exact Nat.lt_of_le_of_ne hc htwo.symm

/-- Settles O24: the branch of POLL whose delimiter test fails. -/
theorem pollDropsSilently : Obligations.PollDropsSilently := by
  intro s hm hq hc hi hd
  obtain ⟨t, hexec, htx, -, -, hdropped, -⟩ := pollFollowsItsRule.2 s _ _ hm rfl rfl
  obtain ⟨ht, hrxq⟩ := hdropped (by rw [hq, List.length_nil]) ⟨idle_reaches_threshold_iff.2 hi, hc⟩ hd
  exact ⟨t, hexec, ht, htx, hrxq⟩

/-- Settles O25: the first empty poll takes the counter to 1, so the second one flushes. -/
theorem secondEmptyPollFlushes : Obligations.SecondEmptyPollFlushes := by
  refine ⟨fun s t hm hexec hn => ?_, fun s t hm hexec hc hemptied => ?_,
    fun t u v hm hc hi hq hfirst hqu hsecond => ?_⟩
  · obtain rfl := eq_pollCommand_of_exec hexec hm
    exact pollCommand_idleCount_of_bytes hn
  · obtain rfl := eq_pollCommand_of_exec hexec hm
    exact pollCommand_idleCount_of_emptied hc hemptied
  · obtain rfl := eq_pollCommand_of_exec hfirst hm
    rw [pollCommand_of_empty t hq (.inr hi)] at hqu hsecond ⊢
    obtain rfl := eq_pollCommand_of_exec hsecond hm
    have hreached : 1 ≤ min (t.idleCount + 1) 2 := by omega
    exact ⟨rfl, rfl, rfl, rfl, pollCommand_flushes hqu hc hreached⟩

/-- Settles O26: the bytes that did not fit are still waiting, so they do not fit the next time either. -/
theorem capacityExceededReadsNothing : Obligations.CapacityExceededReadsNothing := by
  refine fun s hm hn => ⟨fun hover => ?_, fun hexact => ?_⟩
  · refine ⟨pollCommand s, pollCommand (pollCommand s), exec_poll_of_freerun hm, ?_⟩
    rw [pollCommand_of_excess s hn hover]
    refine ⟨rfl, tBuffered_tx s.env, tBuffered_rxq s.env, exec_poll_of_freerun hm, ?_⟩
    have hgrown : s.env.rxq.length ≤ (tBuffered s.env).2.rxq.length := by
      rw [tBuffered_rxq, List.length_append]; exact Nat.le_add_right _ _
    rw [pollCommand_of_excess _ (hn.trans_le hgrown) (by dsimp only; omega)]
  · refine ⟨_, exec_poll_of_freerun hm, ?_⟩
    rw [pollCommand_of_bytes s hn hexact.le]
    exact ⟨rfl, hexact⟩

/-- RDSENT with no sentence pending delivers none (R157). -/
theorem rdsentCommand_of_none {s : State} (h : s.cbLen = 0) :
    rdsentCommand s = { s with resLen := 0, status := .success } := by
  have hpout : s.pout.copyOut (s.cb.readRange 0 s.cbLen) = s.pout := by
    rw [h]; exact Memory.copyOut_nil s.pout
  rw [rdsentCommand, hpout, h]
  rfl

/-- Settles O28: the first RDSENT copies and clears, so the second finds nothing pending. -/
theorem rdsentIsOneShot : Obligations.RdsentIsOneShot := by
  refine ⟨fun s => exec_rdsent_of_framed, fun s hm =>
    ⟨rdsentCommand s, exec_rdsent_of_freerun hm, rfl, fun hlen => ?_, ?_⟩⟩
  · have hpout : (rdsentCommand s).pout = s.pout.copyOut (s.cb.readRange 0 s.cbLen) := rfl
    rw [hpout, Memory.copyOut_of_le _ _ (by rwa [Memory.length_readRange]), Memory.readRange_eq_spaceBytes]
    exact Memory.holdsFrom_writeRange _ _ _
  · have hfreerun : (rdsentCommand s).mode = .freerun := hm
    rw [exec_rdsent_of_freerun hfreerun, rdsentCommand_of_none rfl]
    rfl

/-- Settles O30: refused in FRAMED; in FREERUN the cursor and the counter go to zero (R158). -/
theorem lcresetEmptiesTheLine : Obligations.LcresetEmptiesTheLine :=
  ⟨fun _ => exec_lcreset_of_framed, fun _ => exec_lcreset_of_freerun⟩

end Sys2Proof.Machine

/-! ## The Protocol Client

An exchange has four endings (R170): the request does not fit FB, the transport takes only its beginning, the response
fails a check, the response is valid. The first three are the same for every command built on an exchange; what a valid
response is used for is told by each command's own equation. -/

namespace Sys2Proof.Machine

/-! ### Acceptance (R192, R193) -/

section
variable {s : State} (hm : s.mode = .framed)
include hm

theorem exec_reqresp_of_accepted (h : 8 + s.opnd.expLen.toNat ≤ s.cfg.maxFrame) :
    exec .reqresp s = .next (reqrespCommand s) :=
  congrArg Host.Outcome.next
    ((whenMode_same _ hm).trans (whenOperand_ok _ ((expectationFits_iff s).2 h)))

theorem exec_reqresp_of_misfit (h : s.cfg.maxFrame < 8 + s.opnd.expLen.toNat) :
    exec .reqresp s = .next { s with status := .badOperand } := by
  have hbad : s.expectationFits = false := by
    rw [← Bool.not_eq_true, expectationFits_iff]; omega
  exact congrArg Host.Outcome.next ((whenMode_same _ hm).trans (whenOperand_bad _ hbad))

theorem exec_getfix_of_framed : exec .getfix s = .next (getfixCommand s) :=
  congrArg Host.Outcome.next (whenMode_same _ hm)

theorem exec_setfmt_of_accepted (h : s.opnd.argFmt.toNat ≤ 7) : exec .setfmt s = .next (setfmtCommand s) :=
  congrArg Host.Outcome.next
    ((whenMode_same _ hm).trans (whenOperand_ok _ ((formatBitLegal_iff s).2 h)))

theorem exec_setfmt_of_illegalBit (h : 7 < s.opnd.argFmt.toNat) :
    exec .setfmt s = .next { s with status := .badOperand } := by
  have hbad : s.formatBitLegal = false := by
    rw [← Bool.not_eq_true, formatBitLegal_iff]; omega
  exact congrArg Host.Outcome.next ((whenMode_same _ hm).trans (whenOperand_bad _ hbad))

theorem exec_applyrst_of_framed : exec .applyrst s = .next (applyrstCommand s) :=
  congrArg Host.Outcome.next (whenMode_same _ hm)

end

/-! ### A frame handed to the transport (R132) -/

theorem tWrite_tx_take (e : Env) (frame : Bytes) : (tWrite e frame).2.tx = e.tx ++ frame.take e.draw.accepts := by
  rw [tWrite_tx, Env.take_accepted]

theorem tWrite_tx_whole {e : Env} {frame : Bytes} (h : frame.length ≤ e.draw.accepts) :
    (tWrite e frame).2.tx = e.tx ++ frame := by
  rw [tWrite_tx_take, List.take_of_length_le h]

/-- Where a frame is written over bytes of its own extent, only its extent has changed. -/
theorem holdsFrom_of_overwritten {old mid new : Memory} {frame : Bytes} (h : holdsFrom mid new 0 frame)
    (habove : ∀ k, frame.length ≤ k → mid.read k = old.read k) : holdsFrom old new 0 frame := by
  obtain ⟨hin, hout⟩ := h
  exact ⟨hin, fun k hk => (hout k hk).trans (habove k (by omega))⟩

/-- A command that ends with a frame in FB and what the transport took of it in the TX stream. -/
def sentState (s : State) (st : Status) (frame : Bytes) : State :=
  { s with status := st, fb := s.fb.writeRange 0 frame, env := (tWrite s.env frame).2 }

/-- All that such a command changes: nothing is read, the peer only appends (R69). -/
theorem sentState_effects (s : State) (st : Status) (frame : Bytes) :
    sentState s st frame =
        { s with status := st, fb := (sentState s st frame).fb, env := (sentState s st frame).env } ∧
      holdsFrom s.fb (sentState s st frame).fb 0 frame ∧
      (sentState s st frame).env.tx = s.env.tx ++ frame.take s.env.draw.accepts ∧
      (sentState s st frame).env.rxq = s.env.rxq ++ s.env.draw.after :=
  ⟨rfl, Memory.holdsFrom_writeRange _ _ _, tWrite_tx_take _ _, tWrite_rxq _ _⟩

/-! ### The endings of an exchange (R170) -/

section
variable {s : State} {cls id ecls eid : Byte} {p : Bytes} {len : Nat} {body : State → State}

theorem onSuccess_exchange_of_overflow (h : s.cfg.maxFrame < 8 + p.length) :
    onSuccess (exchange s cls id p ecls eid len) body = { s with status := .encodeOverflow } := by
  rw [exchange_of_overflow _ _ _ _ _ h]; rfl

theorem onSuccess_exchange_of_partial (h : 8 + p.length ≤ s.cfg.maxFrame) (ha : s.env.draw.accepts < 8 + p.length) :
    onSuccess (exchange s cls id p ecls eid len) body = sentState s .transmitFailed (frameBytes cls id p) := by
  rw [exchange_of_partial _ _ _ _ _ (by omega) ha]; rfl

theorem onSuccess_of_failure {ended : Status × State} (h : ended.1 ≠ .success) :
    onSuccess ended body = ended.2.finish ended.1 :=
  onSuccess_cases (P := (· = ended.2.finish ended.1)) (fun hok => absurd hok h) fun _ => rfl

theorem onSuccess_exchange_of_failure (h : 8 + p.length ≤ s.cfg.maxFrame) (ha : 8 + p.length ≤ s.env.draw.accepts)
    (hfail : decodeOutcome ecls eid len (responseBytes (tWrite s.env (frameBytes cls id p)).2 s len) ≠ .success) :
    onSuccess (exchange s cls id p ecls eid len) body =
      (exchangedState s cls id p ecls eid len).finish
        (decodeOutcome ecls eid len (responseBytes (tWrite s.env (frameBytes cls id p)).2 s len)) := by
  rw [exchange_of_sent _ _ _ _ _ (by omega) (by omega), onSuccess_of_failure hfail]

end

theorem exchangeBuffer_writeRange (fb : Memory) (request r : Bytes) :
    exchangeBuffer fb ((fb.writeRange 0 request).writeRange 0 r) request r := by
  intro k
  simp [Memory.read_writeRange]

/-- Above the request and the response FB is as it was (R130, R133). -/
theorem exchangedState_fb_above (s : State) (cls id : Byte) (p : Bytes) (ecls eid : Byte) (len : Nat) {k : Nat}
    (hreq : 8 + p.length ≤ k) (hresp : 8 + len ≤ k) :
    (exchangedState s cls id p ecls eid len).fb.read k = s.fb.read k := by
  have hread := length_responseBytes_le (tWrite s.env (frameBytes cls id p)).2 s len
  unfold exchangedState
  dsimp only
  rw [exchangeBuffer_writeRange s.fb _ _ k, if_neg (by omega), if_neg (by rw [length_frameBytes]; omega)]

/-- The read of the response adds nothing to the TX stream: it holds the request sent. -/
theorem responseEnv_tx {e : Env} {cls id : Byte} {p : Bytes} (s : State) (len : Nat)
    (ha : 8 + p.length ≤ e.draw.accepts) :
    (responseEnv (tWrite e (frameBytes cls id p)).2 s len).tx = e.tx ++ frameBytes cls id p :=
  (tReadExact_tx _ _ s.cfg.readTimeoutMs).trans (tWrite_tx_whole (by rwa [length_frameBytes]))

/-! ### The payload of a response -/

theorem getD_payload (r : Bytes) {len k : Nat} (h : k < len) : ((r.drop 6).take len).getD k 0 = r.getD (6 + k) 0 := by
  simp [List.getD, h]

/-- A delivered payload stands in POUT from index 0, and nothing above it is touched (R76). -/
theorem Memory.read_writeRange_payload (pout : Memory) {r : Bytes} {len : Nat} (h : 8 + len ≤ r.length) (k : Nat) :
    (pout.writeRange 0 ((r.drop 6).take len)).read k = if k < len then r.getD (6 + k) 0 else pout.read k := by
  have hlen : ((r.drop 6).take len).length = len := by rw [List.length_take, List.length_drop]; omega
  rw [Memory.read_writeRange, hlen, Nat.sub_zero]
  by_cases hk : k < len
  · rw [if_pos (by omega), if_pos hk, getD_payload r hk]
  · rw [if_neg (by omega), if_neg hk]

theorem le32_toNat (b0 b1 b2 b3 : Byte) :
    (le32 b0 b1 b2 b3).toNat = b0.toNat + 256 * b1.toNat + 65536 * b2.toNat + 16777216 * b3.toNat := by
  have h0 := b0.isLt
  have h1 := b1.isLt
  have h2 := b2.isLt
  rw [le32, BitVec.toNat_append, BitVec.toNat_append, BitVec.toNat_append, ← Nat.shiftLeft_add_eq_or_of_lt h0,
    ← Nat.shiftLeft_add_eq_or_of_lt h1, ← Nat.shiftLeft_add_eq_or_of_lt h2]
  simp only [Nat.shiftLeft_eq]
  omega

/-- `as_i32` of R12 is the two's complement reading. -/
theorem asI32_eq_toInt (v : I32) : asI32 v = v.toInt := by
  rw [asI32, BitVec.toInt_eq_toNat_cond]
  split_ifs <;> omega

/-- Each of the seven fields is the 32-bit word at its offset (R97). -/
theorem fixOfPayload_field {p : Bytes} {field : U32} {o : Nat}
    (h : (field, o) ∈
      [((fixOfPayload p).timeOfWeek, 0), ((fixOfPayload p).longitude, 4), ((fixOfPayload p).latitude, 8),
        ((fixOfPayload p).heightAboveEllipsoid, 12), ((fixOfPayload p).heightAboveMeanSeaLevel, 16),
        ((fixOfPayload p).horizontalAccuracyEstimate, 20), ((fixOfPayload p).verticalAccuracyEstimate, 24)]) :
    field = le32At p o ∧ o ≤ 24 := by
  have hmap : (field, o) ∈ [0, 4, 8, 12, 16, 20, 24].map fun k => (le32At p k, k) := h
  obtain ⟨k, hk, he⟩ := List.mem_map.1 hmap
  cases he
  exact ⟨rfl, (by decide : ∀ k ∈ [0, 4, 8, 12, 16, 20, 24], k ≤ 24) _ hk⟩

theorem le32At_payload_toNat (r : Bytes) {len o : Nat} (h : o + 4 ≤ len) :
    (le32At ((r.drop 6).take len) o).toNat =
      (r.getD (6 + o) 0).toNat + 256 * (r.getD (7 + o) 0).toNat + 65536 * (r.getD (8 + o) 0).toNat +
        16777216 * (r.getD (9 + o) 0).toNat := by
  rw [le32At, le32_toNat, getD_payload r (by omega), getD_payload r (by omega), getD_payload r (by omega),
    getD_payload r (by omega)]
  simp only [← Nat.add_assoc, Nat.add_right_comm 6 o]

/-! ### REQRESP (R170) -/

theorem reqrespCommand_of_overflow {s : State} (h : s.cfg.maxFrame < 8 + s.opnd.argLen.toNat) :
    reqrespCommand s = { s with status := .encodeOverflow } := by
  rw [reqrespCommand_eq_onSuccess, onSuccess_exchange_of_overflow (by rwa [length_argPayload])]

theorem reqrespCommand_of_partial {s : State} (h : 8 + s.opnd.argLen.toNat ≤ s.cfg.maxFrame)
    (ha : s.env.draw.accepts < 8 + s.opnd.argLen.toNat) :
    reqrespCommand s =
      sentState s .transmitFailed
        (frameBytes s.opnd.argClass s.opnd.argId (spaceBytes s.pin 0 s.opnd.argLen.toNat)) := by
  rw [reqrespCommand_eq_onSuccess, argPayload_eq,
    onSuccess_exchange_of_partial (by rwa [length_spaceBytes]) (by rwa [length_spaceBytes])]

/-- Settles O12: one equation per path of the exchange (R170). -/
theorem reqrespFollowsItsRule : Obligations.ReqrespFollowsItsRule := by
  intro s request r sent hm hreq hsent hr
  have hlen : request.length = 8 + s.opnd.argLen.toNat := by rw [hreq, length_frameBytes, length_spaceBytes]
  rw [hlen]
  subst hr hsent hreq
  refine ⟨exec_reqresp_of_misfit hm, fun hexp harg => ?_, fun hexp harg ha => ?_, fun hexp harg ha hfail => ?_,
    fun hexp harg ha hok => ?_⟩
  all_goals rw [exec_reqresp_of_accepted hm hexp]
  · rw [reqrespCommand_of_overflow harg]
  · rw [reqrespCommand_of_partial harg ha]
    exact ⟨_, rfl, sentState_effects _ _ _⟩
  · rw [reqrespCommand_eq_onSuccess, argPayload_eq, onSuccess_exchange_of_failure (len := s.expLength)
      (by rwa [length_spaceBytes]) (by rwa [length_spaceBytes]) hfail]
    exact ⟨_, rfl, rfl, exchangeBuffer_writeRange _ _ _, responseEnv_tx s _ (by rwa [length_spaceBytes])⟩
  · have hread := length_of_not_shortRead (hok.trans_ne (by decide))
    rw [reqrespCommand_of_sent s (by omega) (by omega)]
    simp only [hok, if_true]
    refine ⟨_, rfl, rfl, exchangeBuffer_writeRange _ _ _,
      responseEnv_tx s _ (by rwa [length_spaceBytes]), fun k hk => ?_, fun k hk => ?_⟩
    all_goals rw [Memory.read_writeRange_payload _ hread]
    · rw [if_pos hk]
    · rw [if_neg (by omega)]

/-! ### GETFIX (R171) -/

/-- The request of GETFIX is the row NAV_POLL_FRAME. -/
theorem frameBytes_navPoll : frameBytes navClass navId [] = [0xB5, 0x62, 0x01, 0x02, 0x00, 0x00, 0x03, 0x0A] := by
  decide

theorem getfixCommand_of_success {s : State} (ha : 8 ≤ s.env.draw.accepts)
    (hok : decodeOutcome navClass navId navLen
      (responseBytes (tWrite s.env (frameBytes navClass navId [])).2 s navLen) = .success) :
    getfixCommand s =
      { exchangedState s navClass navId [] navClass navId navLen with
        status := .success
        fix := fixOfPayload
          (((responseBytes (tWrite s.env (frameBytes navClass navId [])).2 s navLen).drop 6).take navLen) } := by
  rw [getfixCommand_of_sent s (by omega)]
  dsimp only
  rw [hok, if_pos rfl]

/-- Settles O13: one equation per path of the exchange; the seven fields are the words of the payload (R97). -/
theorem getfixFollowsItsRule : Obligations.GetfixFollowsItsRule := by
  intro s request r sent hm hreq hsent hr
  have hmax := s.cfg.maxFrame_ge
  have hfits : 8 + ([] : Bytes).length ≤ s.cfg.maxFrame := by rw [List.length_nil]; omega
  rw [← frameBytes_navPoll] at hreq
  subst hr hsent hreq
  rw [exec_getfix_of_framed hm]
  refine ⟨fun ha hok => ?_, fun ha hfail => ?_, fun ha => ?_⟩
  · rw [getfixCommand_of_success ha hok]
    refine ⟨_, rfl, rfl, responseEnv_tx s _ ha, exchangeBuffer_writeRange _ _ _, fun field o hmem => ?_⟩
    obtain ⟨rfl, ho⟩ := fixOfPayload_field hmem
    exact ⟨le32At_payload_toNat _ (show o + 4 ≤ 28 by omega), asI32_eq_toInt _⟩
  · rw [getfixCommand_eq_onSuccess,
      onSuccess_exchange_of_failure (ecls := navClass) (eid := navId) (len := navLen) hfits ha hfail]
    exact ⟨_, rfl, rfl, responseEnv_tx s _ ha, exchangeBuffer_writeRange _ _ _⟩
  · rw [getfixCommand_eq_onSuccess, onSuccess_exchange_of_partial hfits ha]
    exact ⟨_, rfl, sentState_effects _ _ _⟩

/-! ### SETFMT (R173) -/

theorem getLsbD_setOrClear (b : Byte) (on : Bool) {k j : Nat} (hj : j < 8) :
    (setOrClear b k on).getLsbD j = if j = k then on else b.getLsbD j := by
  have hbit : ((1 : Byte) <<< k).getLsbD j = decide (j = k) := by
    have h := BitVec.getLsbD_twoPow (w := 8) k j
    rw [BitVec.twoPow_eq] at h
    exact h.trans (by rw [Bool.eq_iff_iff]; simp; omega)
  have hones : (0xFF : Byte).getLsbD j = true := by
    rw [show (0xFF : Byte) = BitVec.allOnes 8 from rfl, BitVec.getLsbD_allOnes, decide_eq_true hj]
  cases on
  · rw [setOrClear, if_neg (by decide), BitVec.getLsbD_and, BitVec.getLsbD_xor, hbit, hones]
    by_cases h : j = k <;> simp [h]
  · rw [setOrClear, if_pos rfl, BitVec.getLsbD_or, hbit]
    by_cases h : j = k <;> simp [h]

/-- Settles O16: one byte is set, and in it one bit. -/
theorem setfmtChangesOneBit : Obligations.SetfmtChangesOneBit := by
  intro p k on hp _
  refine ⟨(length_setFormat p k on).trans hp, fun i hi => ?_, fun j hj => ?_⟩
  · simp [setFormat, List.getD, cfgFmtOffset, Ne.symm hi]
  · have hbyte : (setFormat p k on).getD 14 0 = setOrClear (p.getD 14 0) k on := by
      simp [setFormat, List.getD, cfgFmtOffset, hp]
    rw [hbyte, getLsbD_setOrClear _ _ hj]

/-- After a valid response SETFMT sends one more frame. -/
theorem setfmtCommand_of_success {s : State} (ha : 8 ≤ s.env.draw.accepts)
    (hok : decodeOutcome s.cfg.cfgClass s.cfg.cfgId 20
      (responseBytes (tWrite s.env (frameBytes s.cfg.cfgClass s.cfg.cfgId [])).2 s 20) = .success) :
    setfmtCommand s =
      let x := exchangedState s s.cfg.cfgClass s.cfg.cfgId [] s.cfg.cfgClass s.cfg.cfgId 20
      sentState x (if 28 ≤ x.env.draw.accepts then .success else .transmitFailed)
        (setfmtWriteFrame s (responseBytes (tWrite s.env (frameBytes s.cfg.cfgClass s.cfg.cfgId [])).2 s 20)) := by
  rw [setfmtCommand_of_sent s (by omega)]
  simp only [cfgLen, hok, if_true, ← not_le, ite_not]
  rfl

/-- Settles O17: the three endings of the exchange, and the write back after a valid response (R173, R177). -/
theorem setfmtFollowsItsRule : Obligations.SetfmtFollowsItsRule := by
  intro s query r sent read hm hquery hsent hr hread
  have hmax := s.cfg.maxFrame_ge
  have hfits : 8 + ([] : Bytes).length ≤ s.cfg.maxFrame := by rw [List.length_nil]; omega
  subst hread hr hsent hquery
  refine ⟨exec_setfmt_of_illegalBit hm, fun hbit ha => ?_, fun hbit ha hfail => ?_, fun hbit ha hok => ?_⟩
  all_goals rw [exec_setfmt_of_accepted hm hbit]
  · rw [setfmtCommand_eq_onSuccess, onSuccess_exchange_of_partial hfits ha]
    exact ⟨_, rfl, sentState_effects _ _ _⟩
  · rw [setfmtCommand_eq_onSuccess, onSuccess_exchange_of_failure (len := cfgLen) hfits ha hfail]
    exact ⟨_, rfl, rfl, responseEnv_tx s _ ha, exchangeBuffer_writeRange _ _ _⟩
  · have hlong := length_of_not_shortRead (hok.trans_ne (by decide))
    have hback := length_setfmtWriteFrame s _ hlong
    rw [setfmtCommand_of_success ha hok]
    dsimp only
    obtain ⟨hframe, hfb, htx, hrxq⟩ := sentState_effects
      (exchangedState s s.cfg.cfgClass s.cfg.cfgId [] s.cfg.cfgClass s.cfg.cfgId 20) _ _
    refine ⟨_, rfl, hframe, hback, holdsFrom_of_overwritten hfb fun k hk => ?_, ?_, hrxq⟩
    · rw [hback] at hk
      exact exchangedState_fb_above s _ _ _ _ _ _ (by rw [List.length_nil]; omega) hk
    · exact htx.trans (congrArg (· ++ _) (responseEnv_tx (p := []) s 20 ha))

/-! ### APPLYRST (R174) -/

/-- Settles O18: the whole command is one frame sent (R174). -/
theorem applyrstSendsTenBytes : Obligations.ApplyrstSendsTenBytes := by
  intro s frame hm hframe
  have hmax := s.cfg.maxFrame_ge
  subst hframe
  refine ⟨rfl, ?_⟩
  rw [exec_applyrst_of_framed hm, applyrstCommand_eq, sendFrame_of_fits _ _ (show ¬s.cfg.maxFrame < 8 + 2 by omega)]
  simp only [← not_le, ite_not]
  exact ⟨_, rfl, sentState_effects s _ _⟩

/-! ### What a failure keeps (R176) -/

/-- Settles O19: of what the frame of each command lets it write, the results change on Success only. -/
theorem failedExchangeLeavesResults : Obligations.FailedExchangeLeavesResults := by
  intro i s t hi h hne
  have frame := exec_frame i s t h
  have hresults := exec_keepsResultsOnFailure h hne
  simp only [State.results, Prod.mk.injEq] at hresults
  obtain ⟨-, hlen, -, -, hfix, hpout⟩ := hresults
  simp only [List.mem_cons, List.not_mem_nil, or_false] at hi
  obtain rfl | rfl | rfl | rfl | rfl := hi
  · exact frame.trans (by rw [hlen, hpout])
  · exact frame.trans (by rw [hlen, hpout])
  · exact frame.trans (by rw [hfix])
  · exact frame
  · exact frame.trans (by rw [exec_keeps_session h (by decide)])

/-! ### The rows of the frames built -/

/-- Settles O48: the trailers are those of R93, and the write frame carries twenty bytes. -/
theorem builtFramesAreTheRows : Obligations.BuiltFramesAreTheRows := by
  refine ⟨frameBytes_navPoll, fun s r hr => ⟨⟨_, _, rfl⟩, ⟨_, _, _, (frameBytes_setFormat s r).symm, ?_⟩, ⟨_, _, rfl⟩⟩⟩
  refine isCfg_iff.2 ⟨rfl, rfl, ?_⟩
  rw [length_setFormat, List.length_take, List.length_drop, hr]
  rfl

end Sys2Proof.Machine

/-! ## Acceptance

The checks of mode and operand come before a command does anything (R192 to R194). Once accepted, a command never ends
with a refusal's status; so such a status tells which check failed. -/

namespace Sys2Proof.Machine

/-! ### What a refusal tells -/

section
variable {s : State} {body : State → State} {l : List Status} (hbody : (body s).status ∈ l)
include hbody

theorem mode_ne_of_wrongMode {m : Mode} (hl : Status.wrongMode ∉ l) (h : (whenMode m body s).status = .wrongMode) :
    s.mode ≠ m := fun hm => by
  rw [whenMode_same body hm] at h
  exact ne_of_mem_of_not_mem hbody hl h

theorem operand_bad_of_badOperand {ok : State → Bool} (hl : Status.badOperand ∉ l)
    (h : (whenOperand ok body s).status = .badOperand) : ok s ≠ true := fun hok => by
  rw [whenOperand_ok body hok] at h
  exact ne_of_mem_of_not_mem hbody hl h

theorem whenOperand_status_mem (ok : State → Bool) : (whenOperand ok body s).status ∈ Status.badOperand :: l :=
  whenOperand_cases (P := fun t => t.status ∈ Status.badOperand :: l) List.mem_cons_self fun _ =>
    List.mem_cons_of_mem _ hbody

end

theorem mode_eq_freerun_of_ne : ∀ {m : Mode}, m ≠ .framed → m = .freerun
  | .framed, h => absurd rfl h
  | .freerun, _ => rfl

theorem mode_eq_framed_of_ne : ∀ {m : Mode}, m ≠ .freerun → m = .framed
  | .framed, _ => rfl
  | .freerun, h => absurd rfl h

theorem pollCommand_status_mem (s : State) : (pollCommand s).status ∈ [Status.success, .capacityExceeded] := by
  obtain hok | ⟨hcap, -⟩ := pollCommand_status s
  · rw [hok]; decide
  · rw [hcap]; decide

/-- Only the other mode gives WrongMode to a command of FRAMED (R192). -/
theorem freerun_of_wrongMode {i : Instr} {s t : State} (hi : i ∈ [Instr.decode, .reqresp, .getfix, .setfmt, .applyrst])
    (h : exec i s = .next t) (hst : t.status = .wrongMode) : s.mode = .freerun := by
  apply mode_eq_freerun_of_ne
  simp only [List.mem_cons, List.not_mem_nil, or_false] at hi
  obtain rfl | rfl | rfl | rfl | rfl := hi <;> cases h
  · exact mode_ne_of_wrongMode (whenOperand_status_mem (decodeCommandBody_status_mem s) _) (by decide) hst
  · exact mode_ne_of_wrongMode (whenOperand_status_mem (reqrespCommand_status_mem s) _) (by decide) hst
  · exact mode_ne_of_wrongMode (getfixCommand_status_mem s) (by decide) hst
  · exact mode_ne_of_wrongMode (whenOperand_status_mem (setfmtCommand_status_mem s) _) (by decide) hst
  · exact mode_ne_of_wrongMode (applyrstCommand_status_mem s) (by decide) hst

/-- Only the other mode gives WrongMode to a command of FREERUN (R192). -/
theorem framed_of_wrongMode {i : Instr} {s t : State} (hi : i ∈ [Instr.poll, .rdsent, .lcreset])
    (h : exec i s = .next t) (hst : t.status = .wrongMode) : s.mode = .framed := by
  apply mode_eq_framed_of_ne
  simp only [List.mem_cons, List.not_mem_nil, or_false] at hi
  obtain rfl | rfl | rfl := hi <;> cases h
  · exact mode_ne_of_wrongMode (pollCommand_status_mem s) (by decide) hst
  · exact mode_ne_of_wrongMode (List.mem_singleton.2 rfl : (rdsentCommand s).status ∈ [.success]) (by decide) hst
  · exact mode_ne_of_wrongMode (List.mem_singleton.2 rfl : (lcresetCommand s).status ∈ [.success]) (by decide) hst

/-! ### The obligations -/

/-- Settles O32: the check of the mode comes first, and what an accepted command ends with is no WrongMode. -/
theorem wrongModeIsRefused : Obligations.WrongModeIsRefused := by
  intro i s
  refine ⟨fun hi hm => ?_, fun hi hm => ?_, fun t hc h hst => ?_⟩
  · have refused (body : State → State) : whenMode .framed body s = { s with status := .wrongMode } :=
      whenMode_other body (hm.trans_ne (by decide))
    simp only [List.mem_cons, List.not_mem_nil, or_false] at hi
    obtain rfl | rfl | rfl | rfl | rfl := hi <;> exact congrArg Host.Outcome.next (refused _)
  · simp only [List.mem_cons, List.not_mem_nil, or_false] at hi
    obtain rfl | rfl | rfl := hi
    · exact exec_poll_of_framed hm
    · exact exec_rdsent_of_framed hm
    · exact exec_lcreset_of_framed hm
  · cases i
    case cksum | encode => exact absurd (hst ▸ exec_status_mem hc h) (by decide)
    case decode | reqresp | getfix | setfmt | applyrst =>
      exact .inl ⟨by decide, freerun_of_wrongMode (by decide) h hst⟩
    case poll | rdsent | lcreset => exact .inr ⟨by decide, framed_of_wrongMode (by decide) h hst⟩
    all_goals cases hc

/-- Settles O33: the check of the operand comes next in FRAMED; the status lists of the other commands have no
BadOperand, nor has what an accepted one ends with. -/
theorem badOperandIsRefused : Obligations.BadOperandIsRefused := by
  intro s hm
  refine ⟨fun hlen => ⟨exec_decode_of_misfit hm hlen, exec_reqresp_of_misfit hm hlen⟩,
    exec_setfmt_of_illegalBit hm, fun i t hc h hst => ?_⟩
  have checked {ok : State → Bool} {body : State → State} {l : List Status} (hbody : (body s).status ∈ l)
      (hl : Status.badOperand ∉ l) (hbad : (whenMode .framed (whenOperand ok body) s).status = .badOperand) :
      ok s ≠ true := by
    rw [whenMode_same _ hm] at hbad
    exact operand_bad_of_badOperand hbody hl hbad
  cases i
  case decode =>
    cases h
    have hmisfit := checked (decodeCommandBody_status_mem s) (by decide) hst
    exact .inl ⟨by decide, not_le.1 (mt (expectationFits_iff s).2 hmisfit)⟩
  case reqresp =>
    cases h
    have hmisfit := checked (reqrespCommand_status_mem s) (by decide) hst
    exact .inl ⟨by decide, not_le.1 (mt (expectationFits_iff s).2 hmisfit)⟩
  case setfmt =>
    cases h
    have hillegal := checked (setfmtCommand_status_mem s) (by decide) hst
    exact .inr ⟨rfl, not_le.1 (mt (formatBitLegal_iff s).2 hillegal)⟩
  case cksum | encode | getfix | applyrst | poll | rdsent | lcreset =>
    exact absurd (hst ▸ exec_status_mem hc h) (by decide)
  all_goals cases hc

/-- Settles O31: the decoder reads every such byte as the illegal row, which only writes STATUS. -/
theorem illegalOpcodeIsRefused : Obligations.IllegalOpcodeIsRefused := by
  intro s opc rest hopc hin
  have hrow : decodeCommand opc = .illegal opc :=
    decodeCommand_of_illegal (cfg := s.cfg) (wellFormed_illegal.2 (hopc.imp_left fun h => by rw [h]; rfl))
  have hstep : step s =
      exec (.illegal opc) (State.startCommand { s with host := { s.host with inputs := rest } } opc) :=
    (step_cons hin).trans (congrArg (exec · _) hrow)
  exact ⟨rfl, _, hstep, rfl⟩

/-- Settles O36: a command or row answers a next state, and a move that runs none is one. -/
theorem everyStepCompletes : Obligations.EveryStepCompletes := step_completes

/-! ### Host reads (R63, R195) -/

/-- The registers among the host's ports; the other ports are bytes of PIN, POUT and FB (R20). -/
def registerPorts : List HostPort :=
  [.opc, .argClass, .argId, .argLen, .expClass, .expId, .expLen, .argFmt, .argOn, .argRst, .status, .resEvent, .resLen,
    .resCkA, .resCkB, .fix .timeOfWeek, .fix .longitude, .fix .latitude, .fix .heightAboveEllipsoid,
    .fix .heightAboveMeanSeaLevel, .fix .horizontalAccuracyEstimate, .fix .verticalAccuracyEstimate, .cbLen]

/-- Settles O55: the move is the read, whose value is what the port holds; the statement's table lists it register by
register. -/
theorem hostReadHasNoSideEffect : Obligations.HostReadHasNoSideEffect := by
  intro s p rest hin
  refine ⟨{ s.host with inputs := rest, data := s.portValue p, freeCount := s.host.freeCount + 1 },
    by rw [step_cons hin, fetchFrom_read]; rfl, rfl, fun v hv => ?_, ?_, ?_, ?_⟩
  · obtain ⟨q, -, hq⟩ : ∃ q ∈ registerPorts, (q, s.portValue q) = (p, v) := List.mem_map.1 hv
    cases hq
    rfl
  · rintro i rfl; rfl
  · rintro i rfl; rfl
  · rintro i rfl hready hi
    exact portValue_fb_of_delivered hready hi

end Sys2Proof.Machine

/-! ## The first failure in order

R205 lists the failures of a command in the order of its execution: the mode, the operand, the fit of the request, what
the transport takes of it, the checks of the response. Each lemma gives the status after one of these stages, in the
order the stages run, and a command's status is their composition. -/

namespace Sys2Proof.Machine

/-! ### The stages of a command -/

theorem whenMode_status (m : Mode) (body : State → State) (s : State) :
    (whenMode m body s).status = if s.mode ≠ m then .wrongMode else (body s).status := by
  by_cases hm : s.mode = m
  · rw [whenMode_same _ hm, if_neg (not_not.2 hm)]
  · rw [whenMode_other _ hm, if_pos hm]

/-- The check of the operand, by the bound its failure exceeds (R193). -/
theorem whenOperand_status {ok : State → Bool} {s : State} {n bound : Nat} (body : State → State)
    (hok : ok s = true ↔ n ≤ bound) :
    (whenOperand ok body s).status = if bound < n then .badOperand else (body s).status := by
  by_cases hn : bound < n
  · rw [whenOperand_bad _ (Bool.eq_false_iff.2 (mt hok.1 (not_le.2 hn))), if_pos hn]
  · rw [whenOperand_ok _ (hok.2 (not_lt.1 hn)), if_neg hn]

/-- The transport takes less than the whole frame exactly when it accepts fewer bytes (R66). -/
theorem tWrite_count_ne_iff {e : Env} {frame : Bytes} {n : Nat} (hlen : frame.length = n) :
    (tWrite e frame).1 ≠ n ↔ e.draw.accepts < n := by
  subst hlen
  rw [tWrite_count, Ne, Env.accepted_eq_length_iff, not_le]

/-- An exchange ends with its first failure: fit of the request, transmission, checks of the response (R170). -/
theorem exchange_status (s : State) (cls id : Byte) (p : Bytes) (ecls eid : Byte) (len : Nat) :
    (exchange s cls id p ecls eid len).1 =
      if s.cfg.maxFrame < 8 + p.length then .encodeOverflow
      else if (tWrite s.env (frameBytes cls id p)).1 ≠ 8 + p.length then .transmitFailed
      else decodeOutcome ecls eid len (responseBytes (tWrite s.env (frameBytes cls id p)).2 s len) := by
  have hcount := tWrite_count_ne_iff (e := s.env) (length_frameBytes cls id p)
  by_cases hover : s.cfg.maxFrame < 8 + p.length
  · rw [exchange_of_overflow _ _ _ _ _ hover, if_pos hover]
  · rw [if_neg hover]
    by_cases ha : s.env.draw.accepts < 8 + p.length
    · rw [exchange_of_partial _ _ _ _ _ hover ha, if_pos (hcount.2 ha)]
    · rw [exchange_of_sent _ _ _ _ _ hover ha, if_neg (mt hcount.1 ha)]

/-- The eight bytes of a frame without payload always fit FB, so such a request is never an overflow. -/
theorem exchange_status_of_emptyRequest (s : State) (cls id ecls eid : Byte) (len : Nat) :
    (exchange s cls id [] ecls eid len).1 =
      if (tWrite s.env (frameBytes cls id [])).1 ≠ 8 then .transmitFailed
      else decodeOutcome ecls eid len (responseBytes (tWrite s.env (frameBytes cls id [])).2 s len) := by
  have hmax := s.cfg.maxFrame_ge
  rw [exchange_status, if_neg (by rw [List.length_nil]; omega), List.length_nil]

/-! ### SETFMT after acceptance -/

/-- SETFMT sends a second frame after a valid response only, so that transmission is the last thing to fail (R173). -/
theorem setfmtCommand_status (s : State) :
    (setfmtCommand s).status =
      let sent := tWrite s.env (frameBytes s.cfg.cfgClass s.cfg.cfgId [])
      let r := responseBytes sent.2 s 20
      if sent.1 ≠ 8 then .transmitFailed
      else if decodeOutcome s.cfg.cfgClass s.cfg.cfgId 20 r ≠ .success then
        decodeOutcome s.cfg.cfgClass s.cfg.cfgId 20 r
      else if (tWrite (responseEnv sent.2 s 20) (setfmtWriteFrame s r)).1 ≠ 28 then .transmitFailed
      else .success := by
  have hmax := s.cfg.maxFrame_ge
  have hcount := tWrite_count_ne_iff (e := s.env) (n := 8) (length_frameBytes s.cfg.cfgClass s.cfg.cfgId [])
  dsimp only
  by_cases ha : s.env.draw.accepts < 8
  · rw [if_pos (hcount.2 ha), setfmtCommand_eq_onSuccess,
      onSuccess_exchange_of_partial (by rw [List.length_nil]; omega) ha]
    rfl
  · rw [if_neg (mt hcount.1 ha), setfmtCommand_of_sent s ha]
    dsimp only [cfgLen]
    by_cases hok : decodeOutcome s.cfg.cfgClass s.cfg.cfgId 20
        (responseBytes (tWrite s.env (frameBytes s.cfg.cfgClass s.cfg.cfgId [])).2 s 20) = .success
    · have hback := length_setfmtWriteFrame s _ (length_of_not_shortRead (hok.trans_ne (by decide)))
      rw [if_pos hok, if_neg (not_not.2 hok)]
      simp only [tWrite_count_ne_iff hback]
    · rw [if_neg hok, if_pos hok]

/-! ### The obligations -/

/-- Settles O11: mode, operand, then the stages of the exchange (R205). -/
theorem reqrespReportsFirstFailure : Obligations.ReqrespReportsFirstFailure := by
  intro s
  refine ⟨_, rfl, ?_⟩
  rw [whenMode_status, whenOperand_status _ (expectationFits_iff s), reqrespCommand_eq_onSuccess,
    onSuccess_status fun _ => rfl, exchange_status, length_argPayload, argPayload_eq, reqrespStatus, length_frameBytes,
    length_spaceBytes]
  rfl

/-- Settles O14: GETFIX has no operand to refuse, and its request always fits (R205). -/
theorem getfixReportsFirstFailure : Obligations.GetfixReportsFirstFailure := by
  intro s
  refine ⟨_, rfl, ?_⟩
  rw [whenMode_status, getfixCommand_eq_onSuccess, onSuccess_status fun _ => rfl,
    exchange_status_of_emptyRequest, frameBytes_navPoll]
  rfl

/-- Settles O15: after mode and operand, the stages of SETFMT end with its second frame (R205). -/
theorem setfmtReportsFirstFailure : Obligations.SetfmtReportsFirstFailure := by
  intro s
  refine ⟨_, rfl, ?_⟩
  rw [whenMode_status, whenOperand_status _ (formatBitLegal_iff s), setfmtCommand_status]
  rfl

/-- Settles O34: the list of each command holds what its own endings and its checks give (R104, R201). -/
theorem statusesAreThoseOfTheTable : Obligations.StatusesAreThoseOfTheTable := fun _ _ _ => exec_status_mem

/-- Settles O54: the idle move is taken from the script and runs nothing (R213). -/
theorem idleStepKeepsEverything : Obligations.IdleStepKeepsEverything := fun s rest hin => by
  rw [step_cons hin, fetchFrom_idle]

end Sys2Proof.Machine

/-! ## Reset and hazards

A reset between commands keeps the environment (R231). A reset in the middle of one keeps what the calls already made
did to it (R230): each command has its list of calls, and the environment is the one the last of those made has left. A
line that is full stays full until LCRESET (R238). -/

namespace Sys2Proof.Machine

/-- Settles O51: the move is the reset, and each register is as R230 gives it. -/
theorem hardwareResetValues : Obligations.HardwareResetValues := fun _ _ _ hin =>
  ⟨_, step_cons hin, rfl, rfl, rfl, rfl, rfl, rfl, rfl, rfl, rfl, rfl⟩

/-! ### A full line (R238) -/

/-- POLL ends in one of two ways, by whether bytes are waiting that do not fit (R150, R156). -/
theorem pollCommand_status_eq (s : State) :
    (pollCommand s).status =
      if 0 < s.env.rxq.length ∧ s.cfg.lineCapacity < s.lbCursor + s.env.rxq.length then .capacityExceeded
      else .success := by
  by_cases hq : s.env.rxq = []
  · rw [hq, if_neg fun h => absurd h.1 (lt_irrefl 0)]
    by_cases hwait : s.lbCursor = 0 ∨ s.idleCount = 0
    · rw [pollCommand_of_empty s hq hwait]
    · rw [pollCommand_of_flush s hq (by omega) (by omega)]
  · have hpos : 0 < s.env.rxq.length := List.length_pos_of_ne_nil hq
    by_cases hfits : s.lbCursor + s.env.rxq.length ≤ s.cfg.lineCapacity
    · rw [pollCommand_of_bytes s hpos hfits, if_neg (by omega)]
    · rw [pollCommand_of_excess s hpos (by omega), if_pos ⟨hpos, by omega⟩]

/-- With an empty line POLL succeeds exactly when the waiting bytes fit the whole buffer. -/
theorem pollCommand_success_iff_of_emptyLine {s : State} (h : s.lbCursor = 0) :
    (pollCommand s).status = .success ↔ s.env.rxq.length ≤ s.cfg.lineCapacity := by
  rw [pollCommand_status_eq, h, Nat.zero_add]
  split_ifs with hover
  · exact iff_of_false nofun (by omega)
  · exact iff_of_true rfl (by omega)

/-- Settles O27: a CapacityExceeded means bytes wait that do not fit, and it leaves them waiting; LCRESET empties the
line they did not fit into. -/
theorem capacityExceededRepeats : Obligations.CapacityExceededRepeats := by
  intro s t hm hexec hst
  have hover : 0 < s.env.rxq.length ∧ s.cfg.lineCapacity < s.lbCursor + s.env.rxq.length := by
    rw [eq_pollCommand_of_exec hexec hm, pollCommand_status_eq] at hst
    by_contra hfits
    rw [if_neg hfits] at hst
    cases hst
  obtain ⟨t', u, hexec', ht, -, -, hu, hust⟩ := (capacityExceededReadsNothing s hm hover.1).1 hover.2
  obtain rfl : t = t' := Host.Outcome.next.inj (hexec.symm.trans hexec')
  have hmt : t.mode = .freerun := by rw [ht]; exact hm
  exact ⟨⟨u, hu, hust⟩, lcresetCommand t, _, exec_lcreset_of_freerun hmt, exec_poll_of_freerun hmt,
    pollCommand_success_iff_of_emptyLine rfl⟩

/-! ### How many transport calls a command makes (R71) -/

/-- The transport calls a command makes when it comes to all of them. -/
def callBound : Instr → Nat
  | .decode => 1
  | .reqresp => 2
  | .getfix => 2
  | .setfmt => 3
  | .applyrst => 1
  | .poll => 2
  | _ => 0

theorem length_sendPoints_le (s : State) (cls id : Byte) (p : Bytes) : (sendPoints s cls id p).length ≤ 1 := by
  rw [sendPoints_eq]; split <;> simp

theorem length_exchangePoints_le (s : State) (cls id : Byte) (p : Bytes) (len : Nat) :
    (exchangePoints s cls id p len).length ≤ 2 := by
  rw [exchangePoints_eq]; split_ifs <;> simp

theorem length_writeBackPoints_le (s : State) (ended : Status × State) : (writeBackPoints s ended).length ≤ 1 := by
  obtain ⟨st, t⟩ := ended
  cases st
  case success => exact length_sendPoints_le _ _ _ _
  all_goals exact Nat.zero_le 1

theorem length_setfmtPoints_le (s : State) : (setfmtPoints s).length ≤ 3 := by
  rw [setfmtPoints_eq_append, List.length_append]
  exact Nat.add_le_add (length_exchangePoints_le _ _ _ _ _) (length_writeBackPoints_le _ _)

theorem length_pollPoints_le (s : State) : (pollPoints s).length ≤ 2 := by
  unfold pollPoints
  dsimp only
  split <;> simp

theorem length_transportPoints_le (i : Instr) (s : State) : (transportPoints i s).length ≤ callBound i := by
  have guarded : ∀ {c : Prop} [Decidable c] {points : List Env} {n : Nat}, points.length ≤ n →
      (if c then points else []).length ≤ n := fun h => by
    split
    · exact h
    · exact Nat.zero_le _
  cases i
  case decode => exact guarded (le_refl 1)
  case reqresp => exact guarded (length_exchangePoints_le _ _ _ _ _)
  case getfix => exact guarded (length_exchangePoints_le _ _ _ _ _)
  case setfmt => exact guarded (length_setfmtPoints_le s)
  case applyrst => exact guarded (length_sendPoints_le _ _ _ _)
  case poll => exact guarded (length_pollPoints_le s)
  all_goals exact Nat.zero_le _

/-! ### The environment a reset leaves (R230) -/

theorem environmentAfter_zero (i : Instr) (s : State) : environmentAfter i s 0 = s.env := rfl

theorem environmentAfter_of_noCalls {i : Instr} {s : State} (calls : Nat) (h : transportPoints i s = []) :
    environmentAfter i s calls = s.env := by
  rw [environmentAfter_eq, h, List.take_nil]; rfl

/-- A command whose calls were all made has left what the completed command leaves. -/
theorem environmentAfter_of_allCalls {i : Instr} {s t : State} {calls : Nat} (hi : (encode i).1 = .command)
    (h : exec i s = .next t) (hcalls : callBound i ≤ calls) : environmentAfter i s calls = t.env := by
  rw [environmentAfter_eq, List.take_of_length_le ((length_transportPoints_le i s).trans hcalls), exec_env hi h]

/-- The statuses of a command that ends before its first transport call (R130, R191 to R194). -/
def refusedStatuses : List Status := [.illegalOp, .wrongMode, .badOperand, .encodeOverflow]

/-- A command that ends so has made none: once accepted, and its request fit FB, it ends otherwise. -/
theorem transportPoints_of_refused {i : Instr} {s t : State} (h : exec i s = .next t)
    (hst : t.status ∈ refusedStatuses) : transportPoints i s = [] := by
  have ended {l : List Status} (hmem : t.status ∈ l) (hl : ∀ st ∈ l, st ∉ refusedStatuses) : False :=
    hl _ hmem hst
  cases i
  case decode =>
    refine ite_eq_right_iff.2 fun ⟨hm, hfits⟩ => ?_
    cases (exec_decode_of_accepted hm ((expectationFits_iff s).1 hfits)).symm.trans h
    exact (ended (decodeCommandBody_status_mem s) (by decide)).elim
  case reqresp =>
    refine ite_eq_right_iff.2 fun ⟨hm, hfits⟩ => ?_
    cases (exec_reqresp_of_accepted hm ((expectationFits_iff s).1 hfits)).symm.trans h
    by_cases hover : s.cfg.maxFrame < 8 + s.argPayload.length
    · rw [exchangePoints_eq, if_pos hover]
    · rw [reqrespCommand_eq_onSuccess, onSuccess_status fun _ => rfl] at ended
      exact (ended (exchange_status_mem_of_fits _ _ _ _ _ hover) (by decide)).elim
  case getfix =>
    refine ite_eq_right_iff.2 fun hm => ?_
    cases (exec_getfix_of_framed hm).symm.trans h
    exact (ended (getfixCommand_status_mem s) (by decide)).elim
  case setfmt =>
    refine ite_eq_right_iff.2 fun ⟨hm, hbit⟩ => ?_
    cases (exec_setfmt_of_accepted hm ((formatBitLegal_iff s).1 hbit)).symm.trans h
    exact (ended (setfmtCommand_status_mem s) (by decide)).elim
  case applyrst =>
    refine ite_eq_right_iff.2 fun hm => ?_
    cases (exec_applyrst_of_framed hm).symm.trans h
    exact (ended (applyrstCommand_status_mem s) (by decide)).elim
  case poll =>
    refine ite_eq_right_iff.2 fun hm => ?_
    cases (exec_poll_of_freerun hm).symm.trans h
    exact (ended (pollCommand_status_mem s) (by decide)).elim
  all_goals rfl

/-- An exchange whose request fits FB writes it, and reads when it was sent whole (R170). -/
theorem exchangePoints_of_fits {s : State} {p : Bytes} (cls id : Byte) (len : Nat)
    (h : 8 + p.length ≤ s.cfg.maxFrame) :
    exchangePoints s cls id p len =
      (tWrite s.env (frameBytes cls id p)).2 ::
        if s.env.draw.accepts < 8 + p.length then []
        else [responseEnv (tWrite s.env (frameBytes cls id p)).2 s len] := by
  rw [exchangePoints_eq, if_neg (not_lt.2 h)]
  split <;> rfl

theorem emptyRequest_fits (s : State) : 8 + ([] : Bytes).length ≤ s.cfg.maxFrame := by
  have hmax := s.cfg.maxFrame_ge
  rw [List.length_nil]; omega

/-- The eight bytes of a frame without payload always fit. -/
theorem exchangePoints_of_emptyRequest (s : State) (cls id : Byte) (len : Nat) :
    exchangePoints s cls id [] len =
      (tWrite s.env (frameBytes cls id [])).2 ::
        if s.env.draw.accepts < 8 then [] else [responseEnv (tWrite s.env (frameBytes cls id [])).2 s len] :=
  exchangePoints_of_fits cls id len (emptyRequest_fits s)

/-- A query that was not sent whole is SETFMT's only call (R173). -/
theorem setfmtPoints_of_partial {s : State} (ha : s.env.draw.accepts < 8) :
    setfmtPoints s = [(tWrite s.env (frameBytes s.cfg.cfgClass s.cfg.cfgId [])).2] := by
  rw [setfmtPoints_eq_append, exchange_of_partial _ _ _ _ _ (not_lt.2 (emptyRequest_fits s)) ha,
    exchangePoints_of_emptyRequest, if_pos ha]
  rfl

section
variable {s : State} (hm : s.mode = .framed)
include hm

theorem environmentAfter_decode {calls : Nat} (hexp : 8 + s.opnd.expLen.toNat ≤ s.cfg.maxFrame) (hcalls : 1 ≤ calls) :
    environmentAfter .decode s calls = responseEnv s.env s s.opnd.expLen.toNat := by
  rw [environmentAfter_of_allCalls rfl (exec_decode_of_accepted hm hexp) hcalls, decodeCommandBody_responseEnv]

theorem environmentAfter_reqresp_one (hexp : 8 + s.opnd.expLen.toNat ≤ s.cfg.maxFrame)
    (harg : 8 + s.opnd.argLen.toNat ≤ s.cfg.maxFrame) :
    environmentAfter .reqresp s 1 =
      (tWrite s.env
        (frameBytes s.opnd.argClass s.opnd.argId (spaceBytes s.pin 0 s.opnd.argLen.toNat))).2 := by
  rw [environmentAfter_eq, transportPoints, if_pos ⟨hm, (expectationFits_iff s).2 hexp⟩,
    exchangePoints_of_fits _ _ _ (by rwa [length_argPayload]), argPayload_eq]
  rfl

theorem environmentAfter_getfix_one :
    environmentAfter .getfix s 1 = (tWrite s.env [0xB5, 0x62, 0x01, 0x02, 0x00, 0x00, 0x03, 0x0A]).2 := by
  rw [environmentAfter_eq, transportPoints, if_pos hm, exchangePoints_of_emptyRequest, frameBytes_navPoll]
  rfl

theorem environmentAfter_setfmt_one (hbit : s.opnd.argFmt.toNat ≤ 7) :
    environmentAfter .setfmt s 1 = (tWrite s.env (frameBytes s.cfg.cfgClass s.cfg.cfgId [])).2 := by
  rw [environmentAfter_eq, transportPoints, if_pos ⟨hm, (formatBitLegal_iff s).2 hbit⟩, setfmtPoints_eq_append,
    exchangePoints_of_emptyRequest]
  rfl

theorem environmentAfter_setfmt_two (hbit : s.opnd.argFmt.toNat ≤ 7) :
    environmentAfter .setfmt s 2 =
      if 8 ≤ s.env.draw.accepts then
        responseEnv (tWrite s.env (frameBytes s.cfg.cfgClass s.cfg.cfgId [])).2 s 20
      else (tWrite s.env (frameBytes s.cfg.cfgClass s.cfg.cfgId [])).2 := by
  rw [environmentAfter_eq, transportPoints, if_pos ⟨hm, (formatBitLegal_iff s).2 hbit⟩]
  by_cases ha : s.env.draw.accepts < 8
  · rw [setfmtPoints_of_partial ha, if_neg (not_le.2 ha)]
    rfl
  · rw [setfmtPoints_eq_append, exchangePoints_of_emptyRequest, if_neg ha, if_pos (not_lt.1 ha)]
    rfl

theorem environmentAfter_applyrst {calls : Nat} (hcalls : 1 ≤ calls) :
    environmentAfter .applyrst s calls =
      (tWrite s.env (frameBytes s.cfg.rstClass s.cfg.rstId [s.cfg.rstByte0, s.opnd.argRst])).2 := by
  have hmax := s.cfg.maxFrame_ge
  rw [environmentAfter_of_allCalls rfl (exec_applyrst_of_framed hm) hcalls, applyrstCommand_eq,
    sendFrame_of_fits _ _ (show ¬s.cfg.maxFrame < 8 + 2 by omega)]
  rfl

end

theorem environmentAfter_poll_one {s : State} (hm : s.mode = .freerun) :
    environmentAfter .poll s 1 = (tBuffered s.env).2 := by
  rw [environmentAfter_eq, transportPoints, if_pos hm, pollPoints]
  split_ifs <;> rfl

/-! ### What a reset leaves of a copy to POUT (R13, R230) -/

/-- While a call is still to come, or when nothing is copied, POUT is untouched. -/
theorem copiedAfter_of_uncopied {i : Instr} {s : State} {calls : Nat} (copied : Nat)
    (h : copiedBytes i s ≠ [] → calls < (transportPoints i s).length) : copiedAfter i s calls copied = s.pout := by
  unfold copiedAfter
  split_ifs with hdone
  · rw [of_not_not (mt h (not_lt.2 hdone)), List.take_nil, Memory.copyOut_nil]
  · rfl

/-- A DECODE that delivers has made its read. -/
theorem length_transportPoints_of_decode {s : State} (h : copiedBytes .decode s ≠ []) :
    (transportPoints .decode s).length = 1 := by
  have haccepted : s.mode = .framed ∧ s.expectationFits := by
    by_contra hrefused
    exact h (if_neg hrefused)
  rw [transportPoints, if_pos haccepted]
  rfl

/-- A REQRESP that delivers has written its request and made its read. -/
theorem length_transportPoints_of_reqresp {s : State} (h : copiedBytes .reqresp s ≠ []) :
    (transportPoints .reqresp s).length = 2 := by
  have haccepted : s.mode = .framed ∧ s.expectationFits := by
    by_contra hrefused
    exact h (if_neg hrefused)
  rw [copiedBytes, if_pos haccepted] at h
  rw [transportPoints, if_pos haccepted, exchangePoints_eq]
  by_cases hover : s.cfg.maxFrame < 8 + s.argPayload.length
  · rw [exchange_of_overflow _ _ _ _ _ hover] at h
    exact absurd rfl h
  by_cases ha : s.env.draw.accepts < 8 + s.argPayload.length
  · rw [exchange_of_partial _ _ _ _ _ hover ha] at h
    exact absurd rfl h
  rw [if_neg hover, if_neg ha]
  rfl

/-- When POUT may hold a beginning of what the command copies, by its opcode and the calls made. -/
def CopyBegun (opc : Byte) (calls : Nat) : Prop := (opc = 0x03 ∧ 1 ≤ calls) ∨ (opc = 0x04 ∧ 2 ≤ calls) ∨ opc = 0x09

theorem callBound_le_of_copyBegun {opc : Byte} {calls : Nat} (h : CopyBegun opc calls) :
    callBound (decodeCommand opc) ≤ calls := by
  obtain ⟨rfl, hcalls⟩ | ⟨rfl, hcalls⟩ | rfl := h
  · exact hcalls
  · exact hcalls
  · exact Nat.zero_le calls

theorem copiedAfter_of_not_copyBegun (s : State) {opc : Byte} {calls : Nat} (copied : Nat)
    (h : ¬CopyBegun opc calls) : copiedAfter (decodeCommand opc) s calls copied = s.pout := by
  refine copiedAfter_of_uncopied copied fun hcopies => not_le.1 fun hdone => h ?_
  have hword : (encode (decodeCommand opc)).2 = [opc] := congrArg Prod.snd (decodeCommand_sound s.cfg opc).2
  generalize decodeCommand opc = i at hword hcopies hdone
  cases i
  case decode =>
    rw [length_transportPoints_of_decode hcopies] at hdone
    exact .inl ⟨(List.singleton_inj.1 hword).symm, hdone⟩
  case reqresp =>
    rw [length_transportPoints_of_reqresp hcopies] at hdone
    exact .inr (.inl ⟨(List.singleton_inj.1 hword).symm, hdone⟩)
  case rdsent => exact .inr (.inr (List.singleton_inj.1 hword).symm)
  all_goals exact absurd rfl hcopies

/-- A copy that has begun is the first bytes of what the completed command leaves. -/
theorem copiedAfter_read_of_copyBegun {s t : State} {opc : Byte} {calls : Nat} (copied k : Nat)
    (h : CopyBegun opc calls) (hexec : exec (decodeCommand opc) s = .next t) :
    (copiedAfter (decodeCommand opc) s calls copied).read k =
      if k < copied then t.pout.read k else s.pout.read k := by
  have hdone := (length_transportPoints_le (decodeCommand opc) s).trans (callBound_le_of_copyBegun h)
  simp only [copiedAfter_read _ s t calls copied k hexec, hdone, true_and]

/-! ### The abandoned command -/

theorem step_abandon {s : State} {opc : Byte} {calls copied : Nat} {strap : Mode} {rest : List Input}
    (h : s.host.inputs = .abandon opc calls copied strap :: rest) :
    step s = .next (abandonCommand (decodeCommand opc) calls copied strap (s.afterInput.startCommand opc)) := by
  rw [step_cons h, afterInput_cons h]
  rfl

theorem callBound_le_three (i : Instr) : callBound i ≤ 3 := by
  unfold callBound
  split <;> decide

/-- Settles O53: the registers are those of a reset; the environment and POUT are as the calls made and the bytes copied
have left them, command by command. -/
theorem abandonedCommandKeepsTransportEffects : Obligations.AbandonedCommandKeepsTransportEffects := by
  rintro s t opc calls copied strap rest request query hin hexec rfl rfl
  have hport : (encode (decodeCommand opc)).1 = .command := congrArg Prod.fst (decodeCommand_sound s.cfg opc).2
  have complete := @environmentAfter_of_allCalls _ _ _ calls hport hexec
  refine ⟨_, step_abandon hin, rfl, rfl, rfl, rfl, rfl, rfl, ?_⟩
  rw [afterInput_cons hin] at hexec complete ⊢
  refine ⟨rfl, rfl, ?_, fun hc => complete ((callBound_le_three _).trans hc), fun hst => ?_, fun hopc => ?_, ?_, ?_, ?_,
    ?_, ?_, ?_, fun hbegun k => copiedAfter_read_of_copyBegun copied k hbegun hexec,
    copiedAfter_of_not_copyBegun _ copied⟩
  · rintro rfl
    exact environmentAfter_zero (decodeCommand opc) _
  · exact environmentAfter_of_noCalls calls (transportPoints_of_refused hexec hst)
  · simp only [List.mem_cons, List.not_mem_nil, or_false] at hopc
    obtain rfl | rfl | rfl | rfl := hopc <;> exact environmentAfter_of_noCalls calls rfl
  · rintro rfl hm hexp hc
    exact environmentAfter_decode hm hexp hc
  · rintro rfl hm hexp harg
    exact ⟨fun hc => hc ▸ environmentAfter_reqresp_one hm hexp harg, complete⟩
  · rintro rfl hm
    exact ⟨fun hc => hc ▸ environmentAfter_getfix_one hm, complete⟩
  · rintro rfl hm hbit
    exact ⟨fun hc => hc ▸ environmentAfter_setfmt_one hm hbit,
      fun hc => hc ▸ environmentAfter_setfmt_two hm hbit⟩
  · rintro rfl hm hc
    exact environmentAfter_applyrst (by exact hm) hc
  · rintro rfl hm
    exact ⟨fun hc => hc ▸ environmentAfter_poll_one hm, complete⟩

end Sys2Proof.Machine
